-- ==== Sys2Proof/Word.lean ====
section
/-! DEFINITION. The two widths of the hardware (00_scope.md R5): a byte is 8 bits, a word is 16 bits. -/

namespace Sys2Proof

/-- A byte: 8 bits (R5). -/
abbrev Byte := BitVec 8

/-- A word: 16 bits, one bit pattern with an unsigned and a two's complement reading (R5). -/
abbrev Word := BitVec 16

end Sys2Proof
end

