-- ==== Sys2Proof/Config.lean ====
section
/-! DEFINITION. The implementation parameters of 00_scope.md R4 that the spec fixes, each under its name. The one OPEN parameter, `MEM_SIZE`, is a field of State (log 1); only its bounds and the value `State.reset` takes stand here. -/

namespace Sys2Proof.Config

/-- Smallest `MEM_SIZE` (R4, D6). -/
def memSizeMin : Nat := 1

/-- Largest `MEM_SIZE`: a 16-bit operand names no more addresses (R4, D6). -/
def memSizeMax : Nat := 65536

/-- The `MEM_SIZE` of `State.reset`: the one 95_test_vectors.md pairs with the reset state. DESIGN CHOICE, log 1, unsafe. -/
def defaultMemSize : Nat := 32

/-- `OPC_STOP` (R4, R54). UNVERIFIED, decision D1, log 6, unsafe. -/
def opcStop : BitVec 5 := 0
/-- `OPC_LOAD` (R4, R54). UNVERIFIED, decision D1, log 6, unsafe. -/
def opcLoad : BitVec 5 := 1
/-- `OPC_STORE` (R4, R54). UNVERIFIED, decision D1, log 6, unsafe. -/
def opcStore : BitVec 5 := 2
/-- `OPC_ADD` (R4, R54). UNVERIFIED, decision D1, log 6, unsafe. -/
def opcAdd : BitVec 5 := 3
/-- `OPC_SUB` (R4, R54). UNVERIFIED, decision D1, log 6, unsafe. -/
def opcSub : BitVec 5 := 4
/-- `OPC_CHAR_IN` (R4, R54). UNVERIFIED, decision D1, log 6, unsafe. -/
def opcCharIn : BitVec 5 := 27
/-- `OPC_CHAR_OUT` (R4, R54): the one number the source fixes, through its example `E0 00 48`. -/
def opcCharOut : BitVec 5 := 28

/-- The recognized set, `OPC_CHAR_OUT` last (R54). -/
def recognizedOpcodes : List (BitVec 5) :=
  [opcStop, opcLoad, opcStore, opcAdd, opcSub, opcCharIn, opcCharOut]

/-- `MODE_IMMEDIATE` (R4, R56). -/
def modeImmediate : BitVec 2 := 0
/-- `MODE_DIRECT` (R4, R56). -/
def modeDirect : BitVec 2 := 1

/-- `REGSEL_A` (R4, R57): a label that no rule reads. UNVERIFIED, decision D3, log 17, safe. -/
def regselA : BitVec 1 := 0
/-- `REGSEL_X` (R4, R57): a label that no rule reads. UNVERIFIED, decision D3, log 17, safe. -/
def regselX : BitVec 1 := 1

/-- `MEM_BIG_ENDIAN` (R4, R35): the high byte of a word lies at the lower address. UNVERIFIED, decision D4, log 7, unsafe. -/
def memBigEndian : Bool := true

/-- `OOR_HALTS` (R4, R103): an out-of-range address halts the fetch loop. UNVERIFIED, decision D9, log 9, unsafe. -/
def oorHalts : Bool := true

/-- `RESET_A` (R4, R24). UNVERIFIED, decision D11, log 11, unsafe. -/
def resetA : Word := 0x0000
/-- `RESET_X` (R4, R24). UNVERIFIED, decision D11, log 11, unsafe. -/
def resetX : Word := 0x0000

end Sys2Proof.Config
end

