-- ==== Sys2Proof/Syntax.lean ====
section
/-! DEFINITION. The syntax of the instruction set: operand selectors, the 32 instructions of spec/opcode_table.json, the decoded record that the instruction register holds, and the elements of a program stream. -/

namespace Sys2Proof

/-- The register file's two registers (10_state.md R11, R12); also the reading of the register-select bit (R57). -/
inductive Reg where
  /-- The accumulator A. -/
  | a
  /-- The index register X. -/
  | x
  deriving DecidableEq, Repr

/-- The four values of the addressing-mode field (20_memory.md R40). -/
inductive Mode where
  /-- 0: the operand is literal data. -/
  | immediate
  /-- 1: the operand is a memory address. -/
  | direct
  /-- 2: no name in the spec. -/
  | mode2
  /-- 3: no name in the spec. -/
  | mode3
  deriving DecidableEq, Repr

/-- One constructor per row of spec/opcode_table.json. Every instruction carries a register select, a mode and a 16-bit operand, whether or not it uses them (30_encoding.md R50, R53). -/
inductive Instr where
  /-- STOP: halt the machine (R70). -/
  | stop (r : Reg) (m : Mode) (w : Word)
  /-- LOAD: load the accumulator (R75). -/
  | load (r : Reg) (m : Mode) (w : Word)
  /-- STORE: store the accumulator (R76). -/
  | store (r : Reg) (m : Mode) (w : Word)
  /-- ADD: add to the accumulator (R80). -/
  | add (r : Reg) (m : Mode) (w : Word)
  /-- SUB: subtract from the accumulator (R81). -/
  | sub (r : Reg) (m : Mode) (w : Word)
  /-- UNKNOWN_5: the unrecognized opcode 5 (R55, R71). -/
  | unknown5 (r : Reg) (m : Mode) (w : Word)
  /-- UNKNOWN_6: the unrecognized opcode 6 (R55, R71). -/
  | unknown6 (r : Reg) (m : Mode) (w : Word)
  /-- UNKNOWN_7: the unrecognized opcode 7 (R55, R71). -/
  | unknown7 (r : Reg) (m : Mode) (w : Word)
  /-- UNKNOWN_8: the unrecognized opcode 8 (R55, R71). -/
  | unknown8 (r : Reg) (m : Mode) (w : Word)
  /-- UNKNOWN_9: the unrecognized opcode 9 (R55, R71). -/
  | unknown9 (r : Reg) (m : Mode) (w : Word)
  /-- UNKNOWN_10: the unrecognized opcode 10 (R55, R71). -/
  | unknown10 (r : Reg) (m : Mode) (w : Word)
  /-- UNKNOWN_11: the unrecognized opcode 11 (R55, R71). -/
  | unknown11 (r : Reg) (m : Mode) (w : Word)
  /-- UNKNOWN_12: the unrecognized opcode 12 (R55, R71). -/
  | unknown12 (r : Reg) (m : Mode) (w : Word)
  /-- UNKNOWN_13: the unrecognized opcode 13 (R55, R71). -/
  | unknown13 (r : Reg) (m : Mode) (w : Word)
  /-- UNKNOWN_14: the unrecognized opcode 14 (R55, R71). -/
  | unknown14 (r : Reg) (m : Mode) (w : Word)
  /-- UNKNOWN_15: the unrecognized opcode 15 (R55, R71). -/
  | unknown15 (r : Reg) (m : Mode) (w : Word)
  /-- UNKNOWN_16: the unrecognized opcode 16 (R55, R71). -/
  | unknown16 (r : Reg) (m : Mode) (w : Word)
  /-- UNKNOWN_17: the unrecognized opcode 17 (R55, R71). -/
  | unknown17 (r : Reg) (m : Mode) (w : Word)
  /-- UNKNOWN_18: the unrecognized opcode 18 (R55, R71). -/
  | unknown18 (r : Reg) (m : Mode) (w : Word)
  /-- UNKNOWN_19: the unrecognized opcode 19 (R55, R71). -/
  | unknown19 (r : Reg) (m : Mode) (w : Word)
  /-- UNKNOWN_20: the unrecognized opcode 20 (R55, R71). -/
  | unknown20 (r : Reg) (m : Mode) (w : Word)
  /-- UNKNOWN_21: the unrecognized opcode 21 (R55, R71). -/
  | unknown21 (r : Reg) (m : Mode) (w : Word)
  /-- UNKNOWN_22: the unrecognized opcode 22 (R55, R71). -/
  | unknown22 (r : Reg) (m : Mode) (w : Word)
  /-- UNKNOWN_23: the unrecognized opcode 23 (R55, R71). -/
  | unknown23 (r : Reg) (m : Mode) (w : Word)
  /-- UNKNOWN_24: the unrecognized opcode 24 (R55, R71). -/
  | unknown24 (r : Reg) (m : Mode) (w : Word)
  /-- UNKNOWN_25: the unrecognized opcode 25 (R55, R71). -/
  | unknown25 (r : Reg) (m : Mode) (w : Word)
  /-- UNKNOWN_26: the unrecognized opcode 26 (R55, R71). -/
  | unknown26 (r : Reg) (m : Mode) (w : Word)
  /-- CHAR_IN: read one character into memory (R85). -/
  | charIn (r : Reg) (m : Mode) (w : Word)
  /-- CHAR_OUT: write one character (R86). -/
  | charOut (r : Reg) (m : Mode) (w : Word)
  /-- UNKNOWN_29: the unrecognized opcode 29 (R55, R71). -/
  | unknown29 (r : Reg) (m : Mode) (w : Word)
  /-- UNKNOWN_30: the unrecognized opcode 30 (R55, R71). -/
  | unknown30 (r : Reg) (m : Mode) (w : Word)
  /-- UNKNOWN_31: the unrecognized opcode 31 (R55, R71). -/
  | unknown31 (r : Reg) (m : Mode) (w : Word)
  deriving DecidableEq, Repr

/-- The decoded record that `Decode` answers and the instruction register holds, as raw fields (10_state.md R16, 30_encoding.md R53). -/
structure InstrReg where
  /-- `IR.opcode`, the raw value, recognized or not. -/
  opcode : BitVec 5
  /-- `IR.regsel`. -/
  regsel : BitVec 1
  /-- `IR.mode`, the raw value. -/
  mode : BitVec 2
  /-- `IR.operand`. -/
  operand : Word
  deriving DecidableEq, Repr

/-- One element of the program stream (10_state.md R19). -/
inductive StreamElem where
  /-- `Instr(spec, operand)`: an instruction's specifier byte and operand. -/
  | instr (spec : Byte) (operand : Word)
  /-- The sentinel, which ends the program. -/
  | sentinel
  deriving DecidableEq, Repr

end Sys2Proof
end

