-- ==== Sys2Proof/WellFormed.lean ====
section
/-! DEFINITION. What the spec asks of the data the machine is given: a deliverable instruction, a well-formed program stream, a legal memory size, a legal set of opcode numbers. -/

namespace Sys2Proof

/-- An instruction the loader can deliver: its specifier byte is not 0x00, which the loader takes as the sentinel; the one such instruction is STOP, register A, Immediate (30_encoding.md R58, R60). -/
def Instr.wf : Instr → Bool
  | .stop .a .immediate _ => false
  | _ => true

/-- An element the loader can deliver: the specifier byte of an `Instr` element is other than 0x00 (10_state.md R19). -/
def StreamElem.wf : StreamElem → Bool
  | .instr spec _ => spec != 0x00
  | .sentinel => true

/-- A program stream: `Instr` elements, optionally followed by one `Sentinel` (10_state.md R19). -/
def programWf : List StreamElem → Bool
  | [] => true
  | [e] => e.wf
  | .sentinel :: _ :: _ => false
  | .instr spec operand :: rest => (StreamElem.instr spec operand).wf && programWf rest

/-- A legal `MEM_SIZE` (00_scope.md R4). -/
def memSizeWf (n : Nat) : Bool := decide (Config.memSizeMin ≤ n) && decide (n ≤ Config.memSizeMax)

/-- A legal choice of the numbers `OPC_*`, `OPC_CHAR_OUT` last: seven distinct values, the last one 28 (30_encoding.md R54). -/
def opcodesWf (ops : List (BitVec 5)) : Bool :=
  decide (ops.length = 7) && decide ops.Nodup && decide (ops.getLast? = some 28)

end Sys2Proof
end

