-- ==== Sys2Proof/Decode.lean ====
section
/-! DEFINITION. The decoder, the opcode map, the loader's reading of the wire format, and the encoder (30_encoding.md). -/

namespace Sys2Proof

/-! ### The decoder -/

/-- `Decode(spec, operand)`: total and pure, raises nothing (R51, R53). -/
def decodeFields (spec : Byte) (operand : Word) : InstrReg where
  opcode := spec.extractLsb 7 3
  regsel := spec.extractLsb 2 2
  mode := spec.extractLsb 1 0
  operand := operand

/-- The reading of the register-select bit (R57). -/
def Reg.ofBits (b : BitVec 1) : Reg := if b = Config.regselA then .a else .x

/-- The reading of the addressing-mode field (R56). -/
def Mode.ofBits (b : BitVec 2) : Mode :=
  if b = Config.modeImmediate then .immediate
  else if b = Config.modeDirect then .direct
  else if b = 2 then .mode2 else .mode3

/-- The opcode map of R54, R55 and R60: entry n is the instruction of opcode n. The numbers other than 28 are decision D1 (UNVERIFIED, log 6, unsafe). -/
def opcodeMap : List (Reg → Mode → Word → Instr) :=
  [.stop, .load, .store, .add, .sub,
   .unknown5, .unknown6, .unknown7, .unknown8, .unknown9, .unknown10, .unknown11, .unknown12, .unknown13, .unknown14, .unknown15,
   .unknown16, .unknown17, .unknown18, .unknown19, .unknown20, .unknown21, .unknown22, .unknown23, .unknown24, .unknown25, .unknown26,
   .charIn, .charOut, .unknown29, .unknown30, .unknown31]

/-- The instruction a decoded record stands for, chosen by its opcode alone (R54, R55, R92). -/
def Instr.ofIR (ir : InstrReg) : Instr :=
  (opcodeMap[ir.opcode.toNat]'(ir.opcode.isLt)) (Reg.ofBits ir.regsel) (Mode.ofBits ir.mode) ir.operand

/-- The instruction of a specifier byte and an operand (R53 to R55). -/
def decode (spec : Byte) (operand : Word) : Instr := Instr.ofIR (decodeFields spec operand)

/-- `operand = (byte1, byte2)`: the first operand byte on the wire is the high one (R52). -/
def operandOfWire (byte1 byte2 : Byte) : Word := byte1 ++ byte2

/-- The first operand byte on the wire, `operand[15:8]` (R52). -/
def wireFirst (w : Word) : Byte := w.extractLsb 15 8

/-- The second operand byte on the wire, `operand[7:0]` (R52). -/
def wireSecond (w : Word) : Byte := w.extractLsb 7 0

/-- Why bytes are no instruction. -/
inductive DecodeError where
  /-- Fewer than the 3 bytes that every instruction has (R50, R62). -/
  | truncated
  deriving DecidableEq, Repr

/-- The instruction at the front of a byte sequence, with the bytes after it. The only refusal is a sequence shorter than one instruction (R50, R53). -/
def decodeBytes : List Byte → Except DecodeError (Instr × List Byte)
  | spec :: byte1 :: byte2 :: rest => .ok (decode spec (operandOfWire byte1 byte2), rest)
  | _ => .error .truncated

/-! ### The loader's reading of the wire format -/

/-- The program stream of a byte sequence (R58): the sentinel is tested at specifier positions only, nothing after it is looked at, and a truncated last instruction is the end of the input (decision D23, UNVERIFIED, log 16, unsafe). -/
def loadProgram : List Byte → List StreamElem
  | [] => []
  | spec :: rest =>
    if spec = 0x00 then [.sentinel]
    else match rest with
      | byte1 :: byte2 :: rest' => .instr spec (operandOfWire byte1 byte2) :: loadProgram rest'
      | _ => []

/-! ### The encoder -/

/-- The fields of an instruction: the opcode from the parameters `OPC_*` of R54 (or the unrecognized value itself, R55), the register select, the mode and the operand. -/
def Instr.parts : Instr → BitVec 5 × Reg × Mode × Word
  | .stop r m w => (Config.opcStop, r, m, w)
  | .load r m w => (Config.opcLoad, r, m, w)
  | .store r m w => (Config.opcStore, r, m, w)
  | .add r m w => (Config.opcAdd, r, m, w)
  | .sub r m w => (Config.opcSub, r, m, w)
  | .unknown5 r m w => (5, r, m, w)
  | .unknown6 r m w => (6, r, m, w)
  | .unknown7 r m w => (7, r, m, w)
  | .unknown8 r m w => (8, r, m, w)
  | .unknown9 r m w => (9, r, m, w)
  | .unknown10 r m w => (10, r, m, w)
  | .unknown11 r m w => (11, r, m, w)
  | .unknown12 r m w => (12, r, m, w)
  | .unknown13 r m w => (13, r, m, w)
  | .unknown14 r m w => (14, r, m, w)
  | .unknown15 r m w => (15, r, m, w)
  | .unknown16 r m w => (16, r, m, w)
  | .unknown17 r m w => (17, r, m, w)
  | .unknown18 r m w => (18, r, m, w)
  | .unknown19 r m w => (19, r, m, w)
  | .unknown20 r m w => (20, r, m, w)
  | .unknown21 r m w => (21, r, m, w)
  | .unknown22 r m w => (22, r, m, w)
  | .unknown23 r m w => (23, r, m, w)
  | .unknown24 r m w => (24, r, m, w)
  | .unknown25 r m w => (25, r, m, w)
  | .unknown26 r m w => (26, r, m, w)
  | .charIn r m w => (Config.opcCharIn, r, m, w)
  | .charOut r m w => (Config.opcCharOut, r, m, w)
  | .unknown29 r m w => (29, r, m, w)
  | .unknown30 r m w => (30, r, m, w)
  | .unknown31 r m w => (31, r, m, w)

/-- The 5-bit opcode (R54, R55). -/
def Instr.opcode (i : Instr) : BitVec 5 := i.parts.1
/-- The register the register-select bit names (R57). -/
def Instr.reg (i : Instr) : Reg := i.parts.2.1
/-- The addressing mode (R56). -/
def Instr.mode (i : Instr) : Mode := i.parts.2.2.1
/-- The operand (R52). -/
def Instr.operand (i : Instr) : Word := i.parts.2.2.2

/-- Whether the opcode is outside the recognized set (R55). -/
def Instr.isUnknown (i : Instr) : Bool := !(Config.recognizedOpcodes.contains i.opcode)

/-- The register-select bit of a register (R57). -/
def Reg.bits : Reg → BitVec 1
  | .a => Config.regselA
  | .x => Config.regselX

/-- The addressing-mode field of a mode (R56). -/
def Mode.bits : Mode → BitVec 2
  | .immediate => Config.modeImmediate
  | .direct => Config.modeDirect
  | .mode2 => 2
  | .mode3 => 3

/-- The decoded record of an instruction (R16, R53). -/
def Instr.toIR (i : Instr) : InstrReg where
  opcode := i.opcode
  regsel := i.reg.bits
  mode := i.mode.bits
  operand := i.operand

/-- The specifier byte of a decoded record: opcode, register select and mode from the top bit down, `opcode * 8 + regsel * 4 + mode` (R51, R100). -/
def InstrReg.specifier (ir : InstrReg) : Byte := ir.opcode ++ ir.regsel ++ ir.mode

/-- The specifier byte of an instruction (R51). -/
def Instr.specifier (i : Instr) : Byte := i.toIR.specifier

/-- The three bytes of an instruction on the wire: specifier, operand high, operand low (R50, R52). -/
def encode (i : Instr) : List Byte :=
  [i.specifier, wireFirst i.operand, wireSecond i.operand]

/-- The element of a program stream that delivers an instruction (R19). -/
def Instr.toElem (i : Instr) : StreamElem := .instr i.specifier i.operand

/-! ### One instruction given as a number, as spec/opcode_table.json numbers its bits -/

/-- The 24-bit word `I[23:0]` of R50, the specifier byte in bits 23 to 16, from its low `nbits` bits; the bits above are 0. -/
def tableWord (nbits w : Nat) : BitVec 24 := BitVec.ofNat 24 (w % 2 ^ nbits)

/-- The three wire bytes of a 24-bit instruction word (R50). -/
def tableBytes (nbits w : Nat) : List Byte :=
  [(tableWord nbits w).extractLsb 23 16, (tableWord nbits w).extractLsb 15 8,
    (tableWord nbits w).extractLsb 7 0]

/-- The instruction the decoder reads from the bits `w`, numbered as spec/opcode_table.json numbers them; none where no instruction has so many bits (R50, R62). -/
def decodeTableWord (nbits w : Nat) : Option Instr :=
  if 24 < nbits then none
  else match decodeBytes (tableBytes nbits w) with
    | .ok (i, _) => some i
    | .error _ => none

end Sys2Proof
end

