-- ==== Sys2Proof/Machine/State.lean ====
section
/-! DEFINITION. The state of the machine (10_state.md R10), the reasons a step does not happen, and the state after reset (R24). -/

namespace Sys2Proof.Machine

/-- The zero and negative flags of one register (R13): four separate bits in all, no packed layout (D30). -/
structure Flags where
  /-- `Z_r`. -/
  zero : Bool
  /-- `N_r`. -/
  negative : Bool
  deriving DecidableEq, Repr

/-- `run` (R18). -/
inductive RunState where
  /-- The fetch loop takes steps. -/
  | running
  /-- The fetch loop has stopped for good. -/
  | halted
  deriving DecidableEq, Repr

/-- `halt_cause` (R18). -/
inductive HaltCause where
  /-- NONE: the loop has not halted. -/
  | none
  /-- STOP: the STOP instruction (R70). -/
  | stop
  /-- SENTINEL: the loader met the sentinel (R91). -/
  | sentinel
  /-- EOF: the program stream was exhausted (R91). -/
  | eof
  /-- OUT_OF_RANGE: the fatal error OutOfRangeAddress (R103). -/
  | outOfRange
  deriving DecidableEq, Repr

/-- The three kinds of error the core raises (60_exceptions.md R100, R105): names, no numeric codes (D26). -/
inductive ErrorKind where
  /-- UnknownOpcode (R101). -/
  | unknownOpcode
  /-- InvalidAddressingMode (R102). -/
  | invalidAddressingMode
  /-- OutOfRangeAddress (R103). -/
  | outOfRangeAddress
  deriving DecidableEq, Repr

/-- One entry of the error log (R22, D27; log 14). -/
structure Report where
  /-- Which error. -/
  kind : ErrorKind
  /-- The specifier byte of the offending instruction. -/
  spec : Byte
  /-- The operand of the offending instruction. -/
  operand : Word
  deriving DecidableEq, Repr

/-- The complete state (R10), the memory size of R4 with it, and one field of the model's own (`waiting`). -/
structure State where
  /-- `x[A]` (R11). -/
  a : Word
  /-- `x[X]` (R12). -/
  x : Word
  /-- `Z_A`, `N_A` (R13). -/
  flagsA : Flags
  /-- `Z_X`, `N_X` (R13). -/
  flagsX : Flags
  /-- `IR` (R16). -/
  ir : InstrReg
  /-- `MEM_SIZE`, written N: fixed before reset, changed by nothing (R4, R122). In the state so that a claim about all states is one about all N (DESIGN CHOICE, log 1, safe). -/
  memSize : Nat
  /-- `Mem` (R17): the bytes that are not 0x00, by rising address (log 22). -/
  mem : List Host.Cell
  /-- `run` (R18). -/
  run : RunState
  /-- `halt_cause` (R18). -/
  haltCause : HaltCause
  /-- The model's own: the CHAR_IN in `IR` is held for a byte of input (R90, D31; DESIGN CHOICE, log 5, safe). -/
  waiting : Bool
  /-- `prog` (R19). -/
  prog : List StreamElem
  /-- `ip`, the count of elements taken from `prog` (R19). -/
  ip : Nat
  /-- `in`, the character input not yet read, next byte first (R20). -/
  input : List Byte
  /-- `out`, the character output written so far, oldest first (R21). -/
  output : List Byte
  /-- `errs`, the reports made so far, oldest first (R22). -/
  errs : List Report
  deriving DecidableEq, Repr

/-- Why a state has no step. Neither is an error of the spec: the spec's errors are effects on the state (`raise`). -/
inductive Fault where
  /-- Raised by `step` alone, in a state with `run` = HALTED, which has no step (45_fetch_loop.md R93). DESIGN CHOICE to write it as a fault, log 4, safe. -/
  | halted
  /-- Raised by `step` alone, in a RUNNING state whose held CHAR_IN has no byte to take: the machine is stuck until the environment appends one, neither halted nor in error (R20, R90, D16). DESIGN CHOICE to write it as a fault, log 5, safe. -/
  | awaitingInput
  deriving DecidableEq, Repr

/-- Instructions without a meaning in this model. -/
inductive Refusal where
  /-- Would be raised by an arm of `exec` that has no meaning; no arm is without one. Safe. -/
  | notModelled (mnemonic : String)
  deriving DecidableEq, Repr

/-- The state after reset of a machine with `n` bytes of memory, the environment supplying the program stream and the input stream (R24, R120). The registers and `IR` are decisions D11 and D13 (UNVERIFIED, log 11, unsafe); the flags are set to 0 directly (R24, C1; log 12). -/
def State.resetWith (n : Nat) (prog : List StreamElem) (input : List Byte) : State where
  a := Config.resetA
  x := Config.resetX
  flagsA := ⟨false, false⟩
  flagsX := ⟨false, false⟩
  ir := ⟨0, 0, 0, 0x0000⟩
  memSize := n
  mem := []
  run := .running
  haltCause := .none
  waiting := false
  prog := prog
  ip := 0
  input := input
  output := []
  errs := []

/-- The machine right after reset, with nothing supplied by the environment yet (DESIGN CHOICE, log 1 and log 2, unsafe). -/
def State.reset : State := State.resetWith Config.defaultMemSize [] []

end Sys2Proof.Machine
end

