-- ==== Sys2Proof/Machine/Flags.lean ====
section
/-! DEFINITION. The one flag computation of the hardware (10_state.md R14). -/

namespace Sys2Proof.Machine

/-- The flags of a register that holds `v`: zero when `v == 0x0000`, negative when bit 15 is set. There is no carry and no overflow flag (R13, R14). -/
def flagsOf (v : Word) : Flags where
  zero := v == 0x0000
  negative := v.getLsbD 15

end Sys2Proof.Machine
end

