-- ==== Sys2Proof/Machine/Ops.lean ====
section
/-! DEFINITION. The named operations over registers, memory, streams, the error log and the control state: everything an instruction or the fetch loop does to the state, it does through these. -/

namespace Sys2Proof.Machine

/-! ### The register file -/

/-- `x[r]` (10_state.md R11, R12). -/
def readReg (r : Reg) (s : State) : Word :=
  match r with
  | .a => s.a
  | .x => s.x

/-- The flags of `r` (R13). -/
def readFlags (r : Reg) (s : State) : Flags :=
  match r with
  | .a => s.flagsA
  | .x => s.flagsX

/-- `SetRegister(r, v)`: the only register write; it overwrites the register and recomputes its flags in one action (R14, R15). -/
def setRegister (r : Reg) (v : Word) (s : State) : State :=
  match r with
  | .a => { s with a := v, flagsA := flagsOf v }
  | .x => { s with x := v, flagsX := flagsOf v }

/-! ### The data memory -/

/-- What an address that is not listed reads as: memory is zeroed at reset (R24). -/
def Memory.unlisted : Byte := 0x00

/-- One byte of a memory. -/
def Memory.read : List Host.Cell → Nat → Byte
  | [], _ => Memory.unlisted
  | (k, v) :: rest, addr => if k = addr then v else Memory.read rest addr

/-- A memory with one byte replaced, in canonical form again: rising addresses, no entry equal to what an unlisted address reads as. -/
def Memory.write : List Host.Cell → Nat → Byte → List Host.Cell
  | [], addr, b => if b = Memory.unlisted then [] else [(addr, b)]
  | (k, v) :: rest, addr, b =>
    if addr < k then
      if b = Memory.unlisted then (k, v) :: rest else (addr, b) :: (k, v) :: rest
    else if addr = k then
      if b = Memory.unlisted then rest else (addr, b) :: rest
    else (k, v) :: Memory.write rest addr b

/-- The canonical form of a memory: addresses strictly rising, no entry equal to what an unlisted address reads as. -/
def Memory.wf : List Host.Cell → Bool
  | [] => true
  | (k, v) :: rest =>
    v != Memory.unlisted && rest.all (fun c => decide (k < c.1)) && Memory.wf rest

/-- One byte of `Mem` (20_memory.md R33). -/
def readByte (s : State) (addr : Nat) : Byte := Memory.read s.mem addr

/-- `InRange(addr, n)`: every byte of the access has an index below N, in naturals, with no wrap-around (R32; decision D7, log 21). -/
def inRange (addr n : Nat) (s : State) : Bool := decide (addr + n ≤ s.memSize)

/-- The word whose byte at the lower address is `lower` and at the next address `higher` (R35; decision D4, log 7). -/
def wordOfMem (lower higher : Byte) : Word :=
  if Config.memBigEndian then lower ++ higher else higher ++ lower

/-- The byte of a word that lies at the lower address (R35; log 7). -/
def lowerAddressByte (v : Word) : Byte :=
  if Config.memBigEndian then v.extractLsb 15 8 else v.extractLsb 7 0

/-- The byte of a word that lies at the next address (R35; log 7). -/
def higherAddressByte (v : Word) : Byte :=
  if Config.memBigEndian then v.extractLsb 7 0 else v.extractLsb 15 8

/-- `MemRead(addr, 1)`, for an address in range (R33). -/
def memRead1 (addr : Nat) (s : State) : Byte := readByte s addr

/-- `MemRead(addr, 2)`, for an address in range, odd or even (R33, R36). -/
def memRead2 (addr : Nat) (s : State) : Word :=
  wordOfMem (readByte s addr) (readByte s (addr + 1))

/-- `MemWrite(addr, 1, b)`, for an address in range (R34). -/
def memWrite1 (addr : Nat) (b : Byte) (s : State) : State :=
  { s with mem := Memory.write s.mem addr b }

/-- `MemWrite(addr, 2, v)`, for an address in range, both bytes as one action (R34). -/
def memWrite2 (addr : Nat) (v : Word) (s : State) : State :=
  { s with mem :=
      Memory.write (Memory.write s.mem addr (lowerAddressByte v)) (addr + 1) (higherAddressByte v) }

/-! ### The instruction register -/

/-- The write to the `operand` field of `IR` alone (10_state.md R16; 41_load_store.md R76). -/
def setIrOperand (v : Word) (s : State) : State := { s with ir := { s.ir with operand := v } }

/-! ### The character streams -/

/-- `InRead()`: the first byte of the input and the state without it; none while the input is empty (R20). -/
def inRead (s : State) : Option (Byte × State) :=
  match s.input with
  | [] => none
  | b :: rest => some (b, { s with input := rest })

/-- The CHAR_IN in `IR` is held until a byte is available (R20, R90, D31; log 5). -/
def holdForInput (s : State) : State := { s with waiting := true }

/-- The held CHAR_IN goes on (R20, R90, D31; log 5). -/
def endHold (s : State) : State := { s with waiting := false }

/-- `OutWrite(b)`: always completes (R21; decision D17, log 15). -/
def outWrite (b : Byte) (s : State) : State := { s with output := s.output ++ [b] }

/-! ### Halting and errors -/

/-- `run <- HALTED(c)` (R18). -/
def halt (c : HaltCause) (s : State) : State := { s with run := .halted, haltCause := c }

/-- Whether an error halts the fetch loop (60_exceptions.md R101 to R103; decision D9, log 9). -/
def ErrorKind.fatal : ErrorKind → Bool
  | .unknownOpcode => false
  | .invalidAddressingMode => false
  | .outOfRangeAddress => Config.oorHalts

/-- The report of an error in instruction `i`: its kind, specifier byte and operand (R22, R100; log 14). -/
def reportOf (k : ErrorKind) (i : Instr) : Report := ⟨k, i.specifier, i.operand⟩

/-- A report appended to the error log (R22). -/
def logError (rep : Report) (s : State) : State := { s with errs := s.errs ++ [rep] }

/-- `raise k`: the one exception mechanism of the hardware. It appends the report of the offending instruction, changes nothing else, and halts the loop if the error is fatal. No register is saved, no mode changes and control goes nowhere, there being no handler (R100, R108); there is no return from it (R109). -/
def raise (k : ErrorKind) (i : Instr) (s : State) : State :=
  if k.fatal then halt .outOfRange (logError (reportOf k i) s) else logError (reportOf k i) s

/-! ### The fetch transaction -/

/-- What the loader answers (45_fetch_loop.md R91). -/
inductive Fetched where
  /-- `Instr(spec, operand)`. -/
  | instr (spec : Byte) (operand : Word)
  /-- `End(c)`, with c SENTINEL or EOF. -/
  | done (c : HaltCause)
  deriving DecidableEq, Repr

/-- The answer of `Fetch()`: the next element of `prog`; End(SENTINEL) at the sentinel; End(EOF) where there is no next element (R91; log 13). -/
def fetch (s : State) : Fetched :=
  match s.prog[s.ip]? with
  | none => .done .eof
  | some .sentinel => .done .sentinel
  | some (.instr spec operand) => .instr spec operand

/-- An instruction is taken from the stream and decoded: `ip <- ip + 1`, `IR <- Decode(spec, operand)` (R90, R91). -/
def takeInstr (spec : Byte) (operand : Word) (s : State) : State :=
  { s with ip := s.ip + 1, ir := decodeFields spec operand }

end Sys2Proof.Machine
end

