-- ==== Sys2Proof/Machine/Environment.lean ====
section
/-! DEFINITION. What the environment can do to a core between steps (10_state.md R20, 70_reset_and_hazards.md R120): nothing else can (60_exceptions.md R107). -/

namespace Sys2Proof.Machine

/-- The environment appends a byte to the input stream (R20). -/
def supplyInput (b : Byte) (s : State) : State := { s with input := s.input ++ [b] }

/-- Reset, in any state: every piece of core state takes its reset value, the logs are emptied, `prog` and `in` are taken afresh from the environment; N alone stays, being fixed before reset (R120, R122 (c); decision D14, log 19). -/
def applyReset (prog : List StreamElem) (input : List Byte) (s : State) : State :=
  State.resetWith s.memSize prog input

end Sys2Proof.Machine
end

