-- ==== Sys2Proof/Machine/Operands.lean ====
section
/-! DEFINITION. The addressing-mode multiplexer (20_memory.md R40 to R43): every operand form the spec gives. The register-select bit and the registers take no part in it (R31, R40). -/

namespace Sys2Proof.Machine

/-- What the multiplexer answers for a source (R41, R42). -/
inductive Source (α : Type) where
  /-- A mode the instruction does not admit. -/
  | invalid
  /-- A Direct-mode address whose bytes are not all in memory. -/
  | outOfRange
  /-- The data. -/
  | value (v : α)
  deriving DecidableEq, Repr

/-- What the multiplexer answers for a destination (R43). -/
inductive Target where
  /-- The instruction's own operand field. -/
  | operandField
  /-- A mode the instruction does not admit. -/
  | invalid
  /-- A Direct-mode address whose bytes are not all in memory. -/
  | outOfRange
  /-- The bytes of memory from this address. -/
  | memAt (addr : Nat)
  deriving DecidableEq, Repr

/-- Address formation in Direct mode: the unsigned reading of the operand, 0 to 65535 (R31). -/
def effectiveAddress (w : Word) : Nat := w.toNat

/-- `SrcWord(mode, operand)`, for LOAD, ADD and SUB (R41). Modes 2 and 3 are decision D8 (UNVERIFIED, log 8, unsafe). -/
def srcWord (m : Mode) (w : Word) (s : State) : Source Word :=
  match m with
  | .immediate => .value w
  | .direct =>
    if inRange (effectiveAddress w) 2 s then .value (memRead2 (effectiveAddress w) s) else .outOfRange
  | .mode2 => .invalid
  | .mode3 => .invalid

/-- `SrcByte(mode, operand)`, for CHAR_OUT (R42): in Immediate mode the high byte is discarded without any check. -/
def srcByte (m : Mode) (w : Word) (s : State) : Source Byte :=
  match m with
  | .immediate => .value (w.extractLsb 7 0)
  | .direct =>
    if inRange (effectiveAddress w) 1 s then .value (memRead1 (effectiveAddress w) s) else .outOfRange
  | .mode2 => .invalid
  | .mode3 => .invalid

/-- `Dest(mode, operand, n)`, for STORE (n = 2) and CHAR_IN (n = 1) (R43). -/
def dest (m : Mode) (w : Word) (n : Nat) (s : State) : Target :=
  match m with
  | .immediate => .operandField
  | .direct => if inRange (effectiveAddress w) n s then .memAt (effectiveAddress w) else .outOfRange
  | .mode2 => .invalid
  | .mode3 => .invalid

/-- An instruction `i` over its source: the two rejections raise their errors before any effect (60_exceptions.md R102, R103, R106), a value goes to `effect`. -/
def withSource {α : Type} (i : Instr) (src : Source α) (effect : α → State) (s : State) : State :=
  match src with
  | .invalid => raise .invalidAddressingMode i s
  | .outOfRange => raise .outOfRangeAddress i s
  | .value v => effect v

end Sys2Proof.Machine
end

