-- ==== Sys2Proof/Machine/AddSub.lean ====
section
/-! DEFINITION. ADD and SUB (42_add_sub.md R80 to R82): modulo 65536, overflow raises nothing. -/

namespace Sys2Proof.Machine

/-- `(u(a) + u(v)) mod 65536` (R80, R82). -/
def addWords (a v : Word) : Word := BitVec.ofNat 16 ((a.toNat + v.toNat) % 65536)

/-- `(u(a) + 65536 - u(v)) mod 65536` (R81, R82). -/
def subWords (a v : Word) : Word := BitVec.ofNat 16 ((a.toNat + 65536 - v.toNat) % 65536)

/-- ADD (R80): source and destination are always A. -/
def execAdd (r : Reg) (m : Mode) (w : Word) (s : State) : Host.Outcome State Fault Refusal :=
  .next (withSource (.add r m w) (srcWord m w s)
    (fun v => setRegister .a (addWords (readReg .a s) v) s) s)

/-- SUB (R81): source and destination are always A. -/
def execSub (r : Reg) (m : Mode) (w : Word) (s : State) : Host.Outcome State Fault Refusal :=
  .next (withSource (.sub r m w) (srcWord m w s)
    (fun v => setRegister .a (subWords (readReg .a s) v) s) s)

end Sys2Proof.Machine
end

