-- ==== Sys2Proof/Machine/CharIo.lean ====
section
/-! DEFINITION. CHAR_IN and CHAR_OUT (43_char_io.md R85, R86). -/

namespace Sys2Proof.Machine

/-- CHAR_IN (R85): Direct mode only; both checks come before the input is read, so a rejected CHAR_IN consumes nothing (decision D10, log 10). With no byte available it is held (R20, D31; log 5). -/
def execCharIn (r : Reg) (m : Mode) (w : Word) (s : State) : Host.Outcome State Fault Refusal :=
  .next (match dest m w 1 s with
    | .operandField => raise .invalidAddressingMode (.charIn r m w) s
    | .invalid => raise .invalidAddressingMode (.charIn r m w) s
    | .outOfRange => raise .outOfRangeAddress (.charIn r m w) s
    | .memAt addr =>
      match inRead s with
      | none => holdForInput s
      | some (b, s') => memWrite1 addr b s')

/-- CHAR_OUT (R86): one byte, in Immediate mode the low byte of the operand. -/
def execCharOut (r : Reg) (m : Mode) (w : Word) (s : State) : Host.Outcome State Fault Refusal :=
  .next (withSource (.charOut r m w) (srcByte m w s) (fun b => outWrite b s) s)

end Sys2Proof.Machine
end

