-- ==== Sys2Proof/Machine/LoadStore.lean ====
section
/-! DEFINITION. LOAD and STORE (41_load_store.md R75, R76). -/

namespace Sys2Proof.Machine

/-- LOAD (R75): the destination is always A, whatever the register select says (R57). -/
def execLoad (r : Reg) (m : Mode) (w : Word) (s : State) : Host.Outcome State Fault Refusal :=
  .next (withSource (.load r m w) (srcWord m w s) (fun v => setRegister .a v s) s)

/-- STORE (R76): A to two bytes of memory in Direct mode; in Immediate mode A to the operand field of `IR` and nothing to memory (the quirk; decision D21, log 18). No flag is written. -/
def execStore (r : Reg) (m : Mode) (w : Word) (s : State) : Host.Outcome State Fault Refusal :=
  .next (match dest m w 2 s with
    | .operandField => setIrOperand (readReg .a s) s
    | .invalid => raise .invalidAddressingMode (.store r m w) s
    | .outOfRange => raise .outOfRangeAddress (.store r m w) s
    | .memAt addr => memWrite2 addr (readReg .a s) s)

end Sys2Proof.Machine
end

