-- ==== Sys2Proof/Machine/StopUnknown.lean ====
section
/-! DEFINITION. STOP and the unrecognized opcodes (40_stop_and_unknown.md R70, R71). -/

namespace Sys2Proof.Machine

/-- STOP (R70): halts the loop whatever the mode, register select and operand (decision D8, log 8). -/
def execStop (_r : Reg) (_m : Mode) (_w : Word) (s : State) : Host.Outcome State Fault Refusal :=
  .next (halt .stop s)

/-- What every unrecognized opcode does (R71, R101): the opcode is checked before the mode and the address (R106). -/
def reportUnknown (i : Instr) (s : State) : State := raise .unknownOpcode i s

/-- UNKNOWN_5 (R71). -/
def execUnknown5 (r : Reg) (m : Mode) (w : Word) (s : State) : Host.Outcome State Fault Refusal :=
  .next (reportUnknown (.unknown5 r m w) s)

/-- UNKNOWN_6 (R71). -/
def execUnknown6 (r : Reg) (m : Mode) (w : Word) (s : State) : Host.Outcome State Fault Refusal :=
  .next (reportUnknown (.unknown6 r m w) s)

/-- UNKNOWN_7 (R71). -/
def execUnknown7 (r : Reg) (m : Mode) (w : Word) (s : State) : Host.Outcome State Fault Refusal :=
  .next (reportUnknown (.unknown7 r m w) s)

/-- UNKNOWN_8 (R71). -/
def execUnknown8 (r : Reg) (m : Mode) (w : Word) (s : State) : Host.Outcome State Fault Refusal :=
  .next (reportUnknown (.unknown8 r m w) s)

/-- UNKNOWN_9 (R71). -/
def execUnknown9 (r : Reg) (m : Mode) (w : Word) (s : State) : Host.Outcome State Fault Refusal :=
  .next (reportUnknown (.unknown9 r m w) s)

/-- UNKNOWN_10 (R71). -/
def execUnknown10 (r : Reg) (m : Mode) (w : Word) (s : State) : Host.Outcome State Fault Refusal :=
  .next (reportUnknown (.unknown10 r m w) s)

/-- UNKNOWN_11 (R71). -/
def execUnknown11 (r : Reg) (m : Mode) (w : Word) (s : State) : Host.Outcome State Fault Refusal :=
  .next (reportUnknown (.unknown11 r m w) s)

/-- UNKNOWN_12 (R71). -/
def execUnknown12 (r : Reg) (m : Mode) (w : Word) (s : State) : Host.Outcome State Fault Refusal :=
  .next (reportUnknown (.unknown12 r m w) s)

/-- UNKNOWN_13 (R71). -/
def execUnknown13 (r : Reg) (m : Mode) (w : Word) (s : State) : Host.Outcome State Fault Refusal :=
  .next (reportUnknown (.unknown13 r m w) s)

/-- UNKNOWN_14 (R71). -/
def execUnknown14 (r : Reg) (m : Mode) (w : Word) (s : State) : Host.Outcome State Fault Refusal :=
  .next (reportUnknown (.unknown14 r m w) s)

/-- UNKNOWN_15 (R71). -/
def execUnknown15 (r : Reg) (m : Mode) (w : Word) (s : State) : Host.Outcome State Fault Refusal :=
  .next (reportUnknown (.unknown15 r m w) s)

/-- UNKNOWN_16 (R71). -/
def execUnknown16 (r : Reg) (m : Mode) (w : Word) (s : State) : Host.Outcome State Fault Refusal :=
  .next (reportUnknown (.unknown16 r m w) s)

/-- UNKNOWN_17 (R71). -/
def execUnknown17 (r : Reg) (m : Mode) (w : Word) (s : State) : Host.Outcome State Fault Refusal :=
  .next (reportUnknown (.unknown17 r m w) s)

/-- UNKNOWN_18 (R71). -/
def execUnknown18 (r : Reg) (m : Mode) (w : Word) (s : State) : Host.Outcome State Fault Refusal :=
  .next (reportUnknown (.unknown18 r m w) s)

/-- UNKNOWN_19 (R71). -/
def execUnknown19 (r : Reg) (m : Mode) (w : Word) (s : State) : Host.Outcome State Fault Refusal :=
  .next (reportUnknown (.unknown19 r m w) s)

/-- UNKNOWN_20 (R71). -/
def execUnknown20 (r : Reg) (m : Mode) (w : Word) (s : State) : Host.Outcome State Fault Refusal :=
  .next (reportUnknown (.unknown20 r m w) s)

/-- UNKNOWN_21 (R71). -/
def execUnknown21 (r : Reg) (m : Mode) (w : Word) (s : State) : Host.Outcome State Fault Refusal :=
  .next (reportUnknown (.unknown21 r m w) s)

/-- UNKNOWN_22 (R71). -/
def execUnknown22 (r : Reg) (m : Mode) (w : Word) (s : State) : Host.Outcome State Fault Refusal :=
  .next (reportUnknown (.unknown22 r m w) s)

/-- UNKNOWN_23 (R71). -/
def execUnknown23 (r : Reg) (m : Mode) (w : Word) (s : State) : Host.Outcome State Fault Refusal :=
  .next (reportUnknown (.unknown23 r m w) s)

/-- UNKNOWN_24 (R71). -/
def execUnknown24 (r : Reg) (m : Mode) (w : Word) (s : State) : Host.Outcome State Fault Refusal :=
  .next (reportUnknown (.unknown24 r m w) s)

/-- UNKNOWN_25 (R71). -/
def execUnknown25 (r : Reg) (m : Mode) (w : Word) (s : State) : Host.Outcome State Fault Refusal :=
  .next (reportUnknown (.unknown25 r m w) s)

/-- UNKNOWN_26 (R71). -/
def execUnknown26 (r : Reg) (m : Mode) (w : Word) (s : State) : Host.Outcome State Fault Refusal :=
  .next (reportUnknown (.unknown26 r m w) s)

/-- UNKNOWN_29 (R71). -/
def execUnknown29 (r : Reg) (m : Mode) (w : Word) (s : State) : Host.Outcome State Fault Refusal :=
  .next (reportUnknown (.unknown29 r m w) s)

/-- UNKNOWN_30 (R71). -/
def execUnknown30 (r : Reg) (m : Mode) (w : Word) (s : State) : Host.Outcome State Fault Refusal :=
  .next (reportUnknown (.unknown30 r m w) s)

/-- UNKNOWN_31 (R71). -/
def execUnknown31 (r : Reg) (m : Mode) (w : Word) (s : State) : Host.Outcome State Fault Refusal :=
  .next (reportUnknown (.unknown31 r m w) s)

end Sys2Proof.Machine
end

