-- ==== Sys2Proof/Machine/Dispatch.lean ====
section
/-! DEFINITION. The dispatch (45_fetch_loop.md R92): total over the 32 opcode values, on the opcode alone. -/

namespace Sys2Proof.Machine

def exec (i : Instr) (s : State) : Host.Outcome State Fault Refusal :=
  match i with
  | .stop r m w => Sys2Proof.Machine.execStop r m w s
  | .load r m w => Sys2Proof.Machine.execLoad r m w s
  | .store r m w => Sys2Proof.Machine.execStore r m w s
  | .add r m w => Sys2Proof.Machine.execAdd r m w s
  | .sub r m w => Sys2Proof.Machine.execSub r m w s
  | .unknown5 r m w => Sys2Proof.Machine.execUnknown5 r m w s
  | .unknown6 r m w => Sys2Proof.Machine.execUnknown6 r m w s
  | .unknown7 r m w => Sys2Proof.Machine.execUnknown7 r m w s
  | .unknown8 r m w => Sys2Proof.Machine.execUnknown8 r m w s
  | .unknown9 r m w => Sys2Proof.Machine.execUnknown9 r m w s
  | .unknown10 r m w => Sys2Proof.Machine.execUnknown10 r m w s
  | .unknown11 r m w => Sys2Proof.Machine.execUnknown11 r m w s
  | .unknown12 r m w => Sys2Proof.Machine.execUnknown12 r m w s
  | .unknown13 r m w => Sys2Proof.Machine.execUnknown13 r m w s
  | .unknown14 r m w => Sys2Proof.Machine.execUnknown14 r m w s
  | .unknown15 r m w => Sys2Proof.Machine.execUnknown15 r m w s
  | .unknown16 r m w => Sys2Proof.Machine.execUnknown16 r m w s
  | .unknown17 r m w => Sys2Proof.Machine.execUnknown17 r m w s
  | .unknown18 r m w => Sys2Proof.Machine.execUnknown18 r m w s
  | .unknown19 r m w => Sys2Proof.Machine.execUnknown19 r m w s
  | .unknown20 r m w => Sys2Proof.Machine.execUnknown20 r m w s
  | .unknown21 r m w => Sys2Proof.Machine.execUnknown21 r m w s
  | .unknown22 r m w => Sys2Proof.Machine.execUnknown22 r m w s
  | .unknown23 r m w => Sys2Proof.Machine.execUnknown23 r m w s
  | .unknown24 r m w => Sys2Proof.Machine.execUnknown24 r m w s
  | .unknown25 r m w => Sys2Proof.Machine.execUnknown25 r m w s
  | .unknown26 r m w => Sys2Proof.Machine.execUnknown26 r m w s
  | .charIn r m w => Sys2Proof.Machine.execCharIn r m w s
  | .charOut r m w => Sys2Proof.Machine.execCharOut r m w s
  | .unknown29 r m w => Sys2Proof.Machine.execUnknown29 r m w s
  | .unknown30 r m w => Sys2Proof.Machine.execUnknown30 r m w s
  | .unknown31 r m w => Sys2Proof.Machine.execUnknown31 r m w s

end Sys2Proof.Machine
end

