-- ==== Sys2Proof/Machine/FetchLoop.lean ====
section
/-! DEFINITION. One turn of the fetch loop of a RUNNING machine (45_fetch_loop.md R90, R91): a new instruction is fetched, decoded and executed, or a held CHAR_IN is tried again. -/

namespace Sys2Proof.Machine

/-- The step of a RUNNING machine that holds no instruction (R90): End halts without executing and leaves `IR` alone, an instruction is decoded into `IR` and executed. -/
def fetchDecodeExecute (s : State) : Host.Outcome State Fault Refusal :=
  match fetch s with
  | .done c => .next (halt c s)
  | .instr spec operand => exec (decode spec operand) (takeInstr spec operand s)

/-- The step of a RUNNING machine that holds a CHAR_IN (R20, R90, D31; log 5): no step while the input is empty; else the instruction in `IR` is executed. -/
def resumeHeld (s : State) : Host.Outcome State Fault Refusal :=
  if s.input.isEmpty then .fault .awaitingInput else exec (Instr.ofIR s.ir) (endHold s)

/-- Where the loader's next answer comes from: the element of `prog` at `ip` replaced by `e`, in a machine that is about to fetch (RUNNING, holding nothing, `ip` not past the end). -/
def placeNext (e : StreamElem) (s : State) : State :=
  { s with
    prog := s.prog.take s.ip ++ e :: s.prog.drop (s.ip + 1)
    ip := min s.ip s.prog.length
    run := .running
    haltCause := .none
    waiting := false }

/-- The element that presents a 24-bit instruction word to the decoder. A specifier byte 0x00 is presented as it is, not taken as the sentinel (decision D24; log 3). -/
def tableElem (nbits w : Nat) : StreamElem :=
  .instr ((tableWord nbits w).extractLsb 23 16)
    (operandOfWire ((tableWord nbits w).extractLsb 15 8) ((tableWord nbits w).extractLsb 7 0))

end Sys2Proof.Machine
end

