-- ==== Sys2Proof/Machine/Step.lean ====
section
/-! DEFINITION. The step of the machine (45_fetch_loop.md R90, R93). -/

namespace Sys2Proof.Machine

/-- One step: none when HALTED (R93; log 4); a held CHAR_IN is tried again (log 5); else fetch, decode, execute (R90). -/
def step (s : State) : Host.Outcome State Fault Refusal :=
  match s.run with
  | .halted => .fault .halted
  | .running => if s.waiting then resumeHeld s else fetchDecodeExecute s

/-- `s` with the instruction of the bits `w` placed where the next step fetches it (log 3). -/
def State.withFetchWord (s : State) (nbits w : Nat) : State := placeNext (tableElem nbits w) s

end Sys2Proof.Machine
end

