-- ==== Sys2Proof/Safety.lean ====
section
/-! DEFINITION. The terms claims about runs are made in: how a run ends, when a machine waits, which instruction a step executes, what an error report says, the invariant of the machine, and a program run instruction by instruction. -/

namespace Sys2Proof.Machine

/-! ### The end of a run -/

/-- The run is over (45_fetch_loop.md R95). -/
abbrev Ended (s : State) : Prop := s.run = .halted

/-- The run ended cleanly: by STOP, the sentinel or the end of the stream (R95). -/
abbrev EndedCleanly (s : State) : Prop :=
  s.run = .halted ∧ (s.haltCause = .stop ∨ s.haltCause = .sentinel ∨ s.haltCause = .eof)

/-- The run ended by the fatal error (R95). -/
abbrev EndedFatally (s : State) : Prop := s.run = .halted ∧ s.haltCause = .outOfRange

/-- The machine is stuck in RUNNING: a held CHAR_IN and no byte to take (10_state.md R20, R95). -/
abbrev Stuck (s : State) : Prop := s.run = .running ∧ s.waiting = true ∧ s.input = []

/-- The machine is about to fetch: RUNNING, and no instruction is held. -/
abbrev AtFetch (s : State) : Prop := s.run = .running ∧ s.waiting = false

/-- The instruction that the next step executes: the held CHAR_IN once a byte is there, else the one the fetch delivers; none where the machine is HALTED or stuck, or the fetch answers End (R90, R91; log 5). -/
def executedInstr (s : State) : Option Instr :=
  match s.run with
  | .halted => none
  | .running =>
    if s.waiting then
      if s.input = [] then none else some (Instr.ofIR s.ir)
    else
      match fetch s with
      | .done _ => none
      | .instr spec operand => some (decode spec operand)

/-! ### What a report says -/

/-- How many bytes of memory the Direct mode of an opcode accesses: 2 for LOAD, STORE, ADD, SUB, 1 for CHAR_IN, CHAR_OUT, none for the others (20_memory.md R37). -/
def accessWidth (op : BitVec 5) : Option Nat :=
  if op = Config.opcLoad ∨ op = Config.opcStore ∨ op = Config.opcAdd ∨ op = Config.opcSub then some 2
  else if op = Config.opcCharIn ∨ op = Config.opcCharOut then some 1
  else none

/-- Whether an operand-using instruction rejects a mode: modes 2 and 3 always, mode 0 for CHAR_IN (60_exceptions.md R102, R105). -/
def rejectsMode (op : BitVec 5) (mode : BitVec 2) : Bool :=
  mode == 2 || mode == 3 || (op == Config.opcCharIn && mode == Config.modeImmediate)

/-- The report names an error that its own specifier and operand cause on a machine of `n` bytes: the conditions of the table of R105. -/
def Report.justified (n : Nat) (rep : Report) : Prop :=
  let ir := decodeFields rep.spec rep.operand
  match rep.kind with
  | .unknownOpcode => ir.opcode ∉ Config.recognizedOpcodes
  | .invalidAddressingMode => accessWidth ir.opcode ≠ none ∧ rejectsMode ir.opcode ir.mode = true
  | .outOfRangeAddress =>
    ∃ width, accessWidth ir.opcode = some width ∧ ir.mode = Config.modeDirect ∧
      n < rep.operand.toNat + width

/-! ### The invariant -/

/-- The flags of A agree with A, or A has not been written since reset and they hold their reset value (10_state.md R15). -/
abbrev FlagsAgreeOrReset (s : State) : Prop :=
  s.flagsA = flagsOf s.a ∨ (s.a = Config.resetA ∧ s.flagsA = ⟨false, false⟩)

/-- `IR` holds what the last fetch delivered: its specifier fields whole, and its operand too but after a STORE in Immediate mode, which writes the operand field (R16); before the first fetch, its reset value (R24). -/
def IrTracksProgram (s : State) : Prop :=
  match s.ip with
  | 0 => s.ir = ⟨0, 0, 0, 0x0000⟩
  | k + 1 => ∃ spec operand, s.prog[k]? = some (.instr spec operand) ∧
      s.ir.specifier = spec ∧
      (s.ir.operand = operand ∨
        s.ir.opcode = Config.opcStore ∧ s.ir.mode = Config.modeImmediate)

/-- A held instruction is a CHAR_IN in Direct mode whose address is in range: its checks are done (R90). -/
def HeldIsCharIn (s : State) : Prop :=
  s.run = .running ∧ s.ir.opcode = Config.opcCharIn ∧ s.ir.mode = Config.modeDirect ∧
    inRange (effectiveAddress s.ir.operand) 1 s = true

/-- What holds of the machine between steps. -/
structure MachineInv (s : State) : Prop where
  /-- N is legal (R4). -/
  size_legal : memSizeWf s.memSize = true
  /-- Memory is in canonical form. -/
  mem_canonical : Memory.wf s.mem = true
  /-- Memory lists no address outside 0 to N-1 (R17, R38). -/
  mem_inside : ∀ c ∈ s.mem, c.1 < s.memSize
  /-- `halt_cause` is NONE exactly while RUNNING (R18). -/
  cause_agrees : s.haltCause = .none ↔ s.run = .running
  /-- `ip` counts elements that exist (R19). -/
  ip_bounded : s.ip ≤ s.prog.length
  /-- The program stream has the form the loader gives it (R19). -/
  program_wf : programWf s.prog = true
  /-- The flags of A (R15). -/
  flags_a : FlagsAgreeOrReset s
  /-- X and its flags hold their reset values for ever (R12, R15). -/
  x_reset : s.x = Config.resetX ∧ s.flagsX = ⟨false, false⟩
  /-- `IR` (R16). -/
  ir_tracks : IrTracksProgram s
  /-- A held instruction (R90). -/
  held : s.waiting = true → HeldIsCharIn s
  /-- Every report is justified (R105). -/
  reports_justified : ∀ rep ∈ s.errs, rep.justified s.memSize
  /-- An OutOfRangeAddress report stands in the log exactly when it halted the loop (R103). -/
  fatal_report : (∃ rep ∈ s.errs, rep.kind = .outOfRangeAddress) ↔ s.haltCause = .outOfRange

/-! ### A program, instruction by instruction -/

/-- Instructions executed once each, in order, up to the first that halts the loop or is held (R94), with no fetch loop and no program stream: what a run of the machine is compared with. -/
def runInstrs : List Instr → State → State
  | [], s => s
  | i :: is, s =>
    if s.run = .running ∧ s.waiting = false then
      match exec i (takeInstr i.specifier i.operand s) with
      | .next t => runInstrs is t
      | _ => s
    else s

end Sys2Proof.Machine
end

