-- ==== Sys2Proof/Certificates/Slice0/Obligations.lean ====
section
/-! DEFINITION. The statements for the provers. Each docstring says which sentence of spec/ the statement formalises; where one rests on a decision of the spec (D<n> of 92_eei_decisions.md) or on a choice of the model, it says so and names the log entry. -/

open Sys2Proof Sys2Proof.Machine

/-! ## Encoding, decoding, loading -/

/-- R51, R53: the decoder splits the specifier byte into its top 5 bits, the next bit and the low 2 bits, passes the operand through, and loses nothing. -/
def Obligations.DecodeSplitsSpecifierByte : Prop :=
  ∀ (spec : Byte) (operand : Word),
    (decodeFields spec operand).opcode.toNat = spec.toNat / 8 ∧
    (decodeFields spec operand).regsel.toNat = spec.toNat / 4 % 2 ∧
    (decodeFields spec operand).mode.toNat = spec.toNat % 4 ∧
    (decodeFields spec operand).operand = operand ∧
    spec.toNat = (decodeFields spec operand).opcode.toNat * 8 +
      (decodeFields spec operand).regsel.toNat * 4 + (decodeFields spec operand).mode.toNat

/-- Words written out from R50, R51 and the numbers of R54 (decision D1, log 6, but for `E0 00 48`), one per family and the edges of the UNKNOWN ranges, decode to the instructions they stand for. -/
def Obligations.WrittenWordsDecode : Prop :=
  decodeBytes [0xE0, 0x00, 0x48] = .ok (.charOut .a .immediate 0x0048, []) ∧
  decodeBytes [0x07, 0xFF, 0xFF] = .ok (.stop .x .mode3 0xFFFF, []) ∧
  decodeBytes [0x0D, 0x00, 0x10] = .ok (.load .x .direct 0x0010, []) ∧
  decodeBytes [0x11, 0x00, 0x1E] = .ok (.store .a .direct 0x001E, []) ∧
  decodeBytes [0x18, 0x00, 0x01] = .ok (.add .a .immediate 0x0001, []) ∧
  decodeBytes [0x27, 0xAB, 0xCD] = .ok (.sub .x .mode3 0xABCD, []) ∧
  decodeBytes [0xD9, 0x00, 0x01] = .ok (.charIn .a .direct 0x0001, []) ∧
  decodeBytes [0x28, 0x00, 0x00] = .ok (.unknown5 .a .immediate 0x0000, []) ∧
  decodeBytes [0xD7, 0x12, 0x34] = .ok (.unknown26 .x .mode3 0x1234, []) ∧
  decodeBytes [0xE8, 0x00, 0x00] = .ok (.unknown29 .a .immediate 0x0000, []) ∧
  decodeBytes [0xFF, 0x00, 0x00] = .ok (.unknown31 .x .mode3 0x0000, [])

/-- R50 to R55: decoding the three bytes of any instruction gives it back, with every operand at every value, and leaves the bytes after it. -/
def Obligations.DecodeEncodeRoundTrip : Prop :=
  ∀ (i : Instr) (rest : List Byte), decodeBytes (encode i ++ rest) = .ok (i, rest)

/-- R53, 95_test_vectors.md V-D ("decode loses nothing"): any three bytes are an instruction, and its encoding is those bytes. -/
def Obligations.EncodeDecodeRoundTrip : Prop :=
  ∀ (spec byte1 byte2 : Byte) (rest : List Byte),
    ∃ i, decodeBytes (spec :: byte1 :: byte2 :: rest) = .ok (i, rest) ∧
      encode i = [spec, byte1, byte2]

/-- R55 with the numbers of decision D1 (log 6): a byte decodes to an unrecognized instruction exactly when its top five bits are 5 to 26 or 29 to 31. -/
def Obligations.UnrecognizedOpcodeRange : Prop :=
  ∀ (spec : Byte) (operand : Word),
    (decode spec operand).isUnknown = true ↔
      (5 ≤ spec.toNat / 8 ∧ spec.toNat / 8 ≤ 26) ∨ 29 ≤ spec.toNat / 8

/-- R58 over whole programs: the loader delivers an encoded program of deliverable instructions element by element, ends it at the sentinel whatever follows, and ends it at the end of the bytes where there is no sentinel. -/
def Obligations.LoaderDeliversEncodedProgram : Prop :=
  ∀ (is : List Instr) (rest : List Byte), (∀ i ∈ is, i.wf = true) →
    loadProgram (is.flatMap encode ++ 0x00 :: rest) = is.map Instr.toElem ++ [.sentinel] ∧
    loadProgram (is.flatMap encode) = is.map Instr.toElem

/-- R58, the loop's cases one by one; a truncated last instruction is the end of the input (the spec's decision D23, log 16). -/
def Obligations.LoaderReadsOneElement : Prop :=
  loadProgram [] = [] ∧
  (∀ rest : List Byte, loadProgram (0x00 :: rest) = [.sentinel]) ∧
  ∀ (spec byte1 byte2 : Byte) (rest : List Byte), spec ≠ 0x00 →
    loadProgram [spec] = [] ∧
    loadProgram [spec, byte1] = [] ∧
    loadProgram (spec :: byte1 :: byte2 :: rest) =
      .instr spec (operandOfWire byte1 byte2) :: loadProgram rest

/-- R19: whatever the bytes, the stream the loader makes consists of elements with a specifier other than 0x00, optionally followed by one sentinel. -/
def Obligations.LoaderMakesWellFormedStreams : Prop :=
  ∀ bytes : List Byte, programWf (loadProgram bytes) = true

/-! ## Registers and memory -/

/-- R14: SetRegister overwrites the register, recomputes its two flags from the value, touches neither the other register nor its flags, and nothing else of the state. -/
def Obligations.SetRegisterWritesValueAndFlags : Prop :=
  ∀ (r : Reg) (v : Word) (s : State),
    readReg r (setRegister r v s) = v ∧
    (readFlags r (setRegister r v s)).zero = decide (v = 0x0000) ∧
    (readFlags r (setRegister r v s)).negative = decide (v.toNat / 32768 = 1) ∧
    (∀ r', r' ≠ r → readReg r' (setRegister r v s) = readReg r' s ∧
      readFlags r' (setRegister r v s) = readFlags r' s) ∧
    setRegister r v s = { s with
      a := (setRegister r v s).a, x := (setRegister r v s).x,
      flagsA := (setRegister r v s).flagsA, flagsX := (setRegister r v s).flagsX }

/-- R33, R34: reads after writes of one and two bytes, every other byte left alone; the high byte lies at the lower address (R35, the spec's decision D4, log 7). The premise is the memory's canonical form, an invariant of every step (StepKeepsInvariant). -/
def Obligations.MemoryReadsBackWrites : Prop :=
  ∀ (s : State) (addr : Nat) (b : Byte) (v : Word), Memory.wf s.mem = true →
    memRead1 addr (memWrite1 addr b s) = b ∧
    (∀ k, k ≠ addr → readByte (memWrite1 addr b s) k = readByte s k) ∧
    readByte (memWrite2 addr v s) addr = v.extractLsb 15 8 ∧
    readByte (memWrite2 addr v s) (addr + 1) = v.extractLsb 7 0 ∧
    (∀ k, k ≠ addr → k ≠ addr + 1 → readByte (memWrite2 addr v s) k = readByte s k) ∧
    memRead2 addr (memWrite2 addr v s) = v

/-- The canonical form of memory is kept by a write, and with it the bound on the listed addresses (R17, R38). -/
def Obligations.MemoryWritesKeepCanonicalForm : Prop :=
  ∀ (mem : List Host.Cell) (n addr : Nat) (b : Byte),
    Memory.wf mem = true → (∀ c ∈ mem, c.1 < n) → addr < n →
    Memory.wf (Memory.write mem addr b) = true ∧ ∀ c ∈ Memory.write mem addr b, c.1 < n

/-- Memories in canonical form that read alike at every address are equal data (a property of the model's form of memory, log 22). -/
def Obligations.CanonicalMemoryIsUnique : Prop :=
  ∀ m1 m2 : List Host.Cell, Memory.wf m1 = true → Memory.wf m2 = true →
    (∀ addr, Memory.read m1 addr = Memory.read m2 addr) → m1 = m2

/-! ## The addressing-mode multiplexer -/

/-- R41: the source word in each mode. That modes 2 and 3 are rejected is the spec's decision D8 (log 8); that both bytes must lie below N, with no wrap-around, is its decision D7 (log 21). -/
def Obligations.SourceWordForms : Prop :=
  ∀ (w : Word) (s : State),
    srcWord .immediate w s = .value w ∧
    (w.toNat + 2 ≤ s.memSize → srcWord .direct w s = .value (memRead2 w.toNat s)) ∧
    (s.memSize < w.toNat + 2 → srcWord .direct w s = .outOfRange) ∧
    srcWord .mode2 w s = .invalid ∧ srcWord .mode3 w s = .invalid

/-- R42: the source byte in each mode; in Immediate mode the low byte of the operand, whatever its high byte. That modes 2 and 3 are rejected for CHAR_OUT is the spec's decision D8 (log 8); the form of the bounds check is its decision D7 (log 21). -/
def Obligations.SourceByteForms : Prop :=
  ∀ (w : Word) (s : State),
    (∃ b : Byte, srcByte .immediate w s = .value b ∧ b.toNat = w.toNat % 256) ∧
    (w.toNat + 1 ≤ s.memSize → srcByte .direct w s = .value (memRead1 w.toNat s)) ∧
    (s.memSize < w.toNat + 1 → srcByte .direct w s = .outOfRange) ∧
    srcByte .mode2 w s = .invalid ∧ srcByte .mode3 w s = .invalid

/-- R43: the destination in each mode, for an access of n bytes. That modes 2 and 3 are rejected for STORE too is the spec's decision D8 (log 8); that all n bytes must lie below N, with no wrap-around, is its decision D7 (log 21). -/
def Obligations.DestinationForms : Prop :=
  ∀ (w : Word) (n : Nat) (s : State),
    dest .immediate w n s = .operandField ∧
    (w.toNat + n ≤ s.memSize → dest .direct w n s = .memAt w.toNat) ∧
    (s.memSize < w.toNat + n → dest .direct w n s = .outOfRange) ∧
    dest .mode2 w n s = .invalid ∧ dest .mode3 w n s = .invalid

/-! ## What each instruction does: results, each the whole next state -/

/-- R70: STOP halts with cause STOP, in every mode (modes 2 and 3: the spec's decision D8, log 8), with every register select and operand, and changes nothing else. -/
def Obligations.StopHalts : Prop :=
  ∀ (r : Reg) (m : Mode) (w : Word) (s : State),
    exec (.stop r m w) s = .next { s with run := .halted, haltCause := .stop }

/-- R71: each of the 25 unrecognized opcodes appends one UnknownOpcode report with its own specifier byte and operand, whatever its mode and operand, and changes nothing else; and the step that fetches it does that, with the raw instruction in `IR`, and goes on. Which 25 opcodes is the spec's decision D1 (log 6), that the mode does not matter its decision D8 (log 8), what a report holds its decision D27 (log 14). -/
def Obligations.UnknownOpcodeIsReportedAndSkipped : Prop :=
  ∀ c ∈ ([.unknown5, .unknown6, .unknown7, .unknown8, .unknown9, .unknown10, .unknown11,
    .unknown12, .unknown13, .unknown14, .unknown15, .unknown16, .unknown17, .unknown18,
    .unknown19, .unknown20, .unknown21, .unknown22, .unknown23, .unknown24, .unknown25,
    .unknown26, .unknown29, .unknown30, .unknown31] : List (Reg → Mode → Word → Instr)),
  ∀ (r : Reg) (m : Mode) (w : Word) (s : State),
    exec (c r m w) s =
      .next { s with errs := s.errs ++ [⟨.unknownOpcode, (c r m w).specifier, w⟩] } ∧
    ∀ spec : Byte, decode spec w = c r m w → s.run = .running → s.waiting = false →
      s.prog[s.ip]? = some (.instr spec w) →
      step s = .next { s with
        ip := s.ip + 1
        ir := ⟨spec.extractLsb 7 3, spec.extractLsb 2 2, spec.extractLsb 1 0, w⟩
        errs := s.errs ++ [⟨.unknownOpcode, spec, w⟩] }

/-- R75: LOAD completes in Immediate mode, and in Direct mode where both bytes are in memory, with the value in A and its flags recomputed; high byte first in memory (decision D4, log 7). -/
def Obligations.LoadCompletes : Prop :=
  ∀ (r : Reg) (w : Word) (s : State),
    exec (.load r .immediate w) s =
      .next { s with a := w, flagsA := ⟨decide (w = 0), decide (32768 ≤ w.toNat)⟩ } ∧
    (w.toNat + 2 ≤ s.memSize → ∀ v : Word, v = readByte s w.toNat ++ readByte s (w.toNat + 1) →
      exec (.load r .direct w) s =
        .next { s with a := v, flagsA := ⟨decide (v = 0), decide (32768 ≤ v.toNat)⟩ })

/-- R76: STORE completes in Immediate mode, writing A to the operand field of `IR` and nothing else (decision D21, log 18), and in Direct mode where both bytes are in memory: the high byte of A at the address and the low byte at the next (decision D4, log 7), every other byte of memory as before, nothing but memory changed and no flag written. The premise on memory is an invariant of every step. -/
def Obligations.StoreCompletes : Prop :=
  ∀ (r : Reg) (w : Word) (s : State),
    exec (.store r .immediate w) s = .next { s with ir := { s.ir with operand := s.a } } ∧
    (w.toNat + 2 ≤ s.memSize → Memory.wf s.mem = true →
      ∃ t, exec (.store r .direct w) s = .next t ∧
        readByte t w.toNat = s.a.extractLsb 15 8 ∧
        readByte t (w.toNat + 1) = s.a.extractLsb 7 0 ∧
        (∀ k, k ≠ w.toNat → k ≠ w.toNat + 1 → readByte t k = readByte s k) ∧
        t = { s with mem := t.mem })

/-- R80: ADD completes in Immediate mode, and in Direct mode where both bytes are in memory, with the sum modulo 65536 in A and its flags recomputed (byte order: decision D4, log 7). -/
def Obligations.AddCompletes : Prop :=
  ∀ (r : Reg) (w : Word) (s : State),
    (∀ v : Word, v.toNat = (s.a.toNat + w.toNat) % 65536 →
      exec (.add r .immediate w) s =
        .next { s with a := v, flagsA := ⟨decide (v = 0), decide (32768 ≤ v.toNat)⟩ }) ∧
    (w.toNat + 2 ≤ s.memSize → ∀ d v : Word,
      d = readByte s w.toNat ++ readByte s (w.toNat + 1) →
      v.toNat = (s.a.toNat + d.toNat) % 65536 →
      exec (.add r .direct w) s =
        .next { s with a := v, flagsA := ⟨decide (v = 0), decide (32768 ≤ v.toNat)⟩ })

/-- R81: SUB completes in Immediate mode, and in Direct mode where both bytes are in memory, with the difference modulo 65536 in A and its flags recomputed (byte order: decision D4, log 7). -/
def Obligations.SubCompletes : Prop :=
  ∀ (r : Reg) (w : Word) (s : State),
    (∀ v : Word, v.toNat = (s.a.toNat + 65536 - w.toNat) % 65536 →
      exec (.sub r .immediate w) s =
        .next { s with a := v, flagsA := ⟨decide (v = 0), decide (32768 ≤ v.toNat)⟩ }) ∧
    (w.toNat + 2 ≤ s.memSize → ∀ d v : Word,
      d = readByte s w.toNat ++ readByte s (w.toNat + 1) →
      v.toNat = (s.a.toNat + 65536 - d.toNat) % 65536 →
      exec (.sub r .direct w) s =
        .next { s with a := v, flagsA := ⟨decide (v = 0), decide (32768 ≤ v.toNat)⟩ })

/-- R85: CHAR_IN in Direct mode, its byte in memory and input available, completes: the first input byte, whatever its value, at the address, every other byte of memory as before, the input shorter by one, nothing else changed. The premise on memory is an invariant of every step. -/
def Obligations.CharInCompletes : Prop :=
  ∀ (r : Reg) (w : Word) (b : Byte) (rest : List Byte) (s : State),
    w.toNat + 1 ≤ s.memSize → s.input = b :: rest → Memory.wf s.mem = true →
    ∃ t, exec (.charIn r .direct w) s = .next t ∧
      readByte t w.toNat = b ∧
      (∀ k, k ≠ w.toNat → readByte t k = readByte s k) ∧
      t = { s with mem := t.mem, input := rest }

/-- R20, R90, D16, D31 (the spec's decisions; `waiting` is the model's own field, log 5): with the input empty a CHAR_IN that passes its checks is held and changes nothing else; a RUNNING machine that holds it has no step while the input is empty. -/
def Obligations.CharInHoldsWhileInputEmpty : Prop :=
  ∀ (r : Reg) (w : Word) (s : State), w.toNat + 1 ≤ s.memSize → s.input = [] →
    exec (.charIn r .direct w) s = .next { s with waiting := true } ∧
    (s.run = .running → step { s with waiting := true } = .fault .awaitingInput)

/-- R86: CHAR_OUT completes in Immediate mode with the low byte of the operand, and in Direct mode where its byte is in memory with that one byte, appended to the output; nothing else changes. -/
def Obligations.CharOutCompletes : Prop :=
  ∀ (r : Reg) (w : Word) (s : State),
    exec (.charOut r .immediate w) s =
      .next { s with output := s.output ++ [BitVec.ofNat 8 (w.toNat % 256)] } ∧
    (w.toNat + 1 ≤ s.memSize →
      exec (.charOut r .direct w) s =
        .next { s with output := s.output ++ [readByte s w.toNat] })

/-! ## Errors -/

/-- R102 (modes 2 and 3 but for CHAR_IN: the spec's decision D8, log 8): the mode an instruction does not admit is reported with its specifier byte and operand (decision D27, log 14), nothing else changes, the loop goes on. -/
def Obligations.InvalidModeIsReportedAndSkipped : Prop :=
  ∀ (r : Reg) (m : Mode) (w : Word) (s : State),
    (m = .mode2 ∨ m = .mode3 →
      ∀ c ∈ ([.load, .store, .add, .sub, .charOut] : List (Reg → Mode → Word → Instr)),
        exec (c r m w) s =
          .next { s with errs := s.errs ++ [⟨.invalidAddressingMode, (c r m w).specifier, w⟩] }) ∧
    (m ≠ .direct →
      exec (.charIn r m w) s =
        .next { s with
          errs := s.errs ++ [⟨.invalidAddressingMode, (Instr.charIn r m w).specifier, w⟩] })

/-- R103, R32 (the spec's decisions D7 and D9, log 21 and log 9): a Direct access whose bytes are not all below N is reported with its specifier byte and operand (decision D27, log 14), halts the loop with cause OUT_OF_RANGE, and changes nothing else: no byte is accessed and no input is taken. -/
def Obligations.OutOfRangeHalts : Prop :=
  ∀ (r : Reg) (w : Word) (s : State),
    (s.memSize < w.toNat + 2 →
      ∀ c ∈ ([.load, .store, .add, .sub] : List (Reg → Mode → Word → Instr)),
        exec (c r .direct w) s =
          .next { s with
            errs := s.errs ++ [⟨.outOfRangeAddress, (c r .direct w).specifier, w⟩]
            run := .halted, haltCause := .outOfRange }) ∧
    (s.memSize < w.toNat + 1 →
      ∀ c ∈ ([.charIn, .charOut] : List (Reg → Mode → Word → Instr)),
        exec (c r .direct w) s =
          .next { s with
            errs := s.errs ++ [⟨.outOfRangeAddress, (c r .direct w).specifier, w⟩]
            run := .halted, haltCause := .outOfRange })

/-- R100, R106 (the order of checks is the spec's decision D10, log 10): one instruction adds at most one report; where it adds one, it has changed nothing else but, for the fatal kind, the run state, and the report is justified by the instruction's own specifier and operand (what a report holds: decision D27, log 14; which modes and addresses are errors: decisions D8 and D7, log 8 and log 21; that an address is the fatal kind: decision D9, log 9). -/
def Obligations.ErrorIsTheWholeEffect : Prop :=
  ∀ (i : Instr) (s t : State), exec i s = .next t → t.errs ≠ s.errs →
    ∃ rep : Report, rep.spec = i.specifier ∧ rep.operand = i.operand ∧
      rep.justified s.memSize ∧
      t = { s with
        errs := s.errs ++ [rep]
        run := if rep.kind = .outOfRangeAddress then .halted else s.run
        haltCause := if rep.kind = .outOfRangeAddress then .outOfRange else s.haltCause }

/-! ## Frames -/

/-- R25: A and its flags are written by LOAD, ADD and SUB alone; X, its flags, N, the program and the loader's position by no instruction. -/
def Obligations.RegisterFrame : Prop :=
  ∀ (i : Instr) (s t : State), exec i s = .next t →
    (i.opcode ∉ [Config.opcLoad, Config.opcAdd, Config.opcSub] →
      t.a = s.a ∧ t.flagsA = s.flagsA) ∧
    t.x = s.x ∧ t.flagsX = s.flagsX ∧ t.memSize = s.memSize ∧ t.prog = s.prog ∧ t.ip = s.ip

/-- R25, R37: every byte of memory reads as before after every instruction but STORE and CHAR_IN, and after those two in a mode other than Direct. -/
def Obligations.MemoryFrameOfFormsThatStoreNothing : Prop :=
  ∀ (i : Instr) (s t : State), exec i s = .next t →
    (i.opcode ∉ [Config.opcStore, Config.opcCharIn] ∨ i.mode ≠ .direct) →
    ∀ addr, readByte t addr = readByte s addr

/-- R34, R37, R43: for every address the multiplexer gives as the one stored to, STORE changes no byte outside the two from it and CHAR_IN no byte but the one at it; where the multiplexer gives no address, every byte reads as before. -/
def Obligations.MemoryFrameOfStores : Prop :=
  ∀ (r : Reg) (m : Mode) (w : Word) (s t : State),
    (exec (.store r m w) s = .next t →
      (∀ base, dest m w 2 s = .memAt base →
        ∀ addr, addr < base ∨ base + 2 ≤ addr → readByte t addr = readByte s addr) ∧
      ((∀ base, dest m w 2 s ≠ .memAt base) → ∀ addr, readByte t addr = readByte s addr)) ∧
    (exec (.charIn r m w) s = .next t →
      (∀ base, dest m w 1 s = .memAt base →
        ∀ addr, addr < base ∨ base + 1 ≤ addr → readByte t addr = readByte s addr) ∧
      ((∀ base, dest m w 1 s ≠ .memAt base) → ∀ addr, readByte t addr = readByte s addr))

/-- R16, R25: input is taken by CHAR_IN alone, output written by CHAR_OUT alone, the hold begun by CHAR_IN alone, and `IR` written by STORE in Immediate mode alone, its operand field only. -/
def Obligations.StreamAndInstructionRegisterFrame : Prop :=
  ∀ (i : Instr) (s t : State), exec i s = .next t →
    (i.opcode ≠ Config.opcCharIn → t.input = s.input ∧ t.waiting = s.waiting) ∧
    (i.opcode ≠ Config.opcCharOut → t.output = s.output) ∧
    (i.opcode ≠ Config.opcStore ∨ i.mode ≠ .immediate → t.ir = s.ir) ∧
    t.ir = { s.ir with operand := t.ir.operand }

/-- R25, R93: the run state and the cause are changed by STOP and by an instruction that reports OutOfRangeAddress alone; every instruction leaves the error log as before or appends one report, justified by its own specifier byte and operand; STOP leaves it as before. That an OutOfRangeAddress halts is the spec's decision D9 (log 9), what a report holds its decision D27 (log 14), which modes and addresses are errors its decisions D8 and D7 (log 8 and log 21). -/
def Obligations.ControlFrame : Prop :=
  ∀ (i : Instr) (s t : State), exec i s = .next t →
    (i.opcode ≠ Config.opcStop →
      (¬ ∃ rep, t.errs = s.errs ++ [rep] ∧ rep.kind = .outOfRangeAddress) →
      t.run = s.run ∧ t.haltCause = s.haltCause) ∧
    (t.errs = s.errs ∨ ∃ rep : Report, rep.spec = i.specifier ∧ rep.operand = i.operand ∧
      rep.justified s.memSize ∧ t.errs = s.errs ++ [rep]) ∧
    (i.opcode = Config.opcStop → t.errs = s.errs)

/-- R92: the dispatch is total: in every state every instruction answers a next state, in any mode on any operand, and only CHAR_IN on an empty input is held. That a CHAR_IN that waits answers a next state too, one that holds it, is the model's choice (log 5): the spec's decision D31 also allows a step that is not enabled then. -/
def Obligations.EveryInstructionAnswersANextState : Prop :=
  ∀ (i : Instr) (s : State), ∃ t, exec i s = .next t ∧
    (t.waiting = s.waiting ∨ i.opcode = Config.opcCharIn ∧ s.input = [])

/-- R57: two encodings of an instruction that differ only in the register select do the same, but for the specifier byte that a report quotes. -/
def Obligations.RegisterSelectIsIgnored : Prop :=
  ∀ (spec : Byte) (operand : Word) (s t u : State),
    exec (decode spec operand) s = .next t → exec (decode (spec ^^^ 0x04) operand) s = .next u →
    u = { t with errs := u.errs } ∧
      u.errs.map (fun rep => (rep.kind, rep.operand)) =
        t.errs.map (fun rep => (rep.kind, rep.operand))

/-- R12, R13: no instruction reads a flag or X: states that differ only in the flags and in X go to states that differ only there, and there only where the instruction does not write. -/
def Obligations.FlagsAndIndexRegisterAreNeverRead : Prop :=
  ∀ (i : Instr) (s t u : State) (fa fx : Flags) (x : Word),
    exec i s = .next t →
    exec i { s with flagsA := fa, flagsX := fx, x := x } = .next u →
    u = { t with flagsA := u.flagsA, flagsX := fx, x := x } ∧
      (u.flagsA = t.flagsA ∨ (u.flagsA = fa ∧ t.flagsA = s.flagsA))

/-! ## Laws over more than one instruction -/

/-- 95_test_vectors.md S2: LOAD Immediate then STORE Direct leaves the value in memory, and LOAD Direct at that address brings it back; STORE Immediate in its place leaves memory as it was (R75, R76). -/
def Obligations.LoadStoreRoundTrip : Prop :=
  ∀ (r : Reg) (v addr : Word) (s : State), addr.toNat + 2 ≤ s.memSize → Memory.wf s.mem = true →
    ∃ s1 s2 s3 s4,
      exec (.load r .immediate v) s = .next s1 ∧
      exec (.store r .direct addr) s1 = .next s2 ∧ memRead2 addr.toNat s2 = v ∧
      exec (.load r .direct addr) { s2 with a := 0 } = .next s3 ∧ s3.a = v ∧
      s3.flagsA = s1.flagsA ∧
      exec (.store r .immediate addr) s1 = .next s4 ∧ s4.mem = s.mem

/-- R82: ADD then SUB of the same operand restores A, and SUB of b does what ADD of (65536 - b) modulo 65536 does, for all values. -/
def Obligations.AddAndSubAreInverse : Prop :=
  ∀ (r : Reg) (b b' : Word) (s : State), b'.toNat = (65536 - b.toNat) % 65536 →
    (∃ t u, exec (.add r .immediate b) s = .next t ∧ exec (.sub r .immediate b) t = .next u ∧
      u.a = s.a) ∧
    exec (.sub r .immediate b) s = exec (.add r .immediate b') s

/-- R35 (the spec's decision D4, log 7): the byte order of memory made visible by mixed widths: STORE Direct then CHAR_OUT Direct at the address and the next writes the high byte and then the low byte of A; CHAR_IN Direct at the higher address of a word whose lower byte is 0 then LOAD Direct gives the byte, zero-extended. -/
def Obligations.ByteOrderIsVisible : Prop :=
  ∀ (r : Reg) (w w1 : Word) (b : Byte) (rest : List Byte) (s : State),
    w1.toNat = w.toNat + 1 → w.toNat + 2 ≤ s.memSize → Memory.wf s.mem = true →
    (∃ s1 s2 s3, exec (.store r .direct w) s = .next s1 ∧
      exec (.charOut r .direct w) s1 = .next s2 ∧ exec (.charOut r .direct w1) s2 = .next s3 ∧
      s3.output = s.output ++ [s.a.extractLsb 15 8, s.a.extractLsb 7 0]) ∧
    (s.input = b :: rest → readByte s w.toNat = 0x00 →
      ∃ s1 s2, exec (.charIn r .direct w1) s = .next s1 ∧ exec (.load r .direct w) s1 = .next s2 ∧
        s2.a = b.setWidth 16)

/-! ## The step -/

/-- R91: the fetch transaction: End(EOF) when every element is taken, End(SENTINEL) at the sentinel, else the next element, and `ip` counts it. -/
def Obligations.FetchTransaction : Prop :=
  ∀ s : State,
    (s.ip = s.prog.length → fetch s = .done .eof) ∧
    (s.prog[s.ip]? = some .sentinel → fetch s = .done .sentinel) ∧
    ∀ spec operand, s.prog[s.ip]? = some (.instr spec operand) →
      fetch s = .instr spec operand ∧ (takeInstr spec operand s).ip = s.ip + 1

/-- R90, R91: in a RUNNING machine that holds nothing, a step takes the next instruction of the stream, counts it, decodes it into `IR`, and is the execution of the decoded instruction at that state; the bytes on the wire decode to the same instruction. -/
def Obligations.StepRunsDecodedInstruction : Prop :=
  ∀ (s : State) (spec : Byte) (operand : Word) (rest : List Byte),
    s.run = .running → s.waiting = false → s.prog[s.ip]? = some (.instr spec operand) →
    step s = exec (decode spec operand)
      { s with ip := s.ip + 1, ir := decodeFields spec operand } ∧
    decodeBytes (spec :: wireFirst operand :: wireSecond operand :: rest) =
      .ok (decode spec operand, rest)

/-- R91, R96: in a RUNNING machine that holds nothing, the sentinel halts with cause SENTINEL and the end of the stream with cause EOF, and nothing else changes, `IR` and `ip` included. -/
def Obligations.StepHaltsAtEndOfProgram : Prop :=
  ∀ s : State, s.run = .running → s.waiting = false →
    (s.prog[s.ip]? = some .sentinel →
      step s = .next { s with run := .halted, haltCause := .sentinel }) ∧
    (s.ip = s.prog.length → step s = .next { s with run := .halted, haltCause := .eof })

/-- R93: a HALTED machine has no step; and a step of a RUNNING machine that halts it is one of the four ways: STOP executed, the sentinel, the end of the stream, an OutOfRangeAddress reported. That stopping is written as a fault is the model's choice (log 4). -/
def Obligations.HaltedIsAbsorbingAndEnteredInFourWays : Prop :=
  ∀ s : State,
    (s.run = .halted → step s = .fault .halted) ∧
    ∀ t, s.run = .running → step s = .next t → t.run = .halted →
      (t.haltCause = .stop ∧ t.ir.opcode = Config.opcStop ∧ t.errs = s.errs) ∨
      (t.haltCause = .sentinel ∧ s.prog[s.ip]? = some .sentinel ∧
        t = { s with run := .halted, haltCause := .sentinel }) ∨
      (t.haltCause = .eof ∧ s.prog.length ≤ s.ip ∧
        t = { s with run := .halted, haltCause := .eof }) ∨
      (t.haltCause = .outOfRange ∧
        ∃ rep, t.errs = s.errs ++ [rep] ∧ rep.kind = .outOfRangeAddress)

/-- R20, R90, D31 (the spec's decisions; log 5): a held CHAR_IN has no step while the input is empty; when the environment has appended a byte, the next step completes it with that byte: the byte at its address, the input empty again, the hold ended, every other byte and every other part of the state as before. -/
def Obligations.HeldCharInCompletesWhenInputArrives : Prop :=
  ∀ (s : State) (b : Byte), MachineInv s → s.waiting = true → s.input = [] →
    step s = .fault .awaitingInput ∧
    ∃ t, step (supplyInput b s) = .next t ∧
      readByte t s.ir.operand.toNat = b ∧
      (∀ k, k ≠ s.ir.operand.toNat → readByte t k = readByte s k) ∧
      t = { s with mem := t.mem, waiting := false }

/-- The only stops of the model are the two of R90 and R93: a step answers a next state, or the machine is HALTED, or it is stuck in a CHAR_IN on an empty input. -/
def Obligations.StepStopsOnlyWhenHaltedOrStuck : Prop :=
  ∀ s : State, (∃ t, step s = .next t) ∨
    (Ended s ∧ step s = .fault .halted) ∨ (Stuck s ∧ step s = .fault .awaitingInput)

/-- Every step keeps the invariant, from every state that has it: memory canonical and inside N, the cause in agreement with the run state, `ip` within the program, the flags of A in agreement with A once written, X at its reset value, `IR` as last decoded, a held instruction a checked CHAR_IN, every report justified, and an out-of-range report exactly when it halted the loop (R12, R15, R16, R18, R103, R105). -/
def Obligations.StepKeepsInvariant : Prop :=
  ∀ s t : State, MachineInv s → step s = .next t → MachineInv t

/-- The state after reset has the invariant, for every legal N, every stream the loader can make and every input; `State.reset` among them. -/
def Obligations.ResetMeetsInvariant : Prop :=
  (∀ (n : Nat) (bytes input : List Byte), memSizeWf n = true →
    MachineInv (State.resetWith n (loadProgram bytes) input)) ∧ MachineInv State.reset

/-- R20, R120: what the environment does between steps keeps the invariant too: a byte appended to the input, and a reset in any state. -/
def Obligations.EnvironmentKeepsInvariant : Prop :=
  ∀ (s : State) (b : Byte) (bytes input : List Byte), MachineInv s →
    MachineInv (supplyInput b s) ∧ MachineInv (applyReset (loadProgram bytes) input s)

/-- R14, R15, by the instruction the step executes: LOAD, ADD or SUB on a source that is a value `v` writes A, with `v`, the sum or the difference modulo 65536, and makes the flags agree with A even where the value written is the one A had (95_test_vectors.md V-AS5); every other step, one of a LOAD, ADD or SUB that is rejected, of a STORE (91_not_in_source.md N25, log 18) or of the end of the program among them, leaves A and its flags as they were. So flags that agree with A go on agreeing. Which modes and addresses have no value is the spec's decision D8 and D7 (log 8 and log 21), which opcodes these are D1 (log 6); that a held CHAR_IN is executed by a step of its own is the model's choice (log 5). -/
def Obligations.FlagsFollowTheAccumulator : Prop :=
  ∀ s t : State, step s = .next t →
    (s.flagsA = flagsOf s.a → t.flagsA = flagsOf t.a) ∧
    (∀ i v, executedInstr s = some i → srcWord i.mode i.operand s = .value v →
      (i.opcode = Config.opcLoad → t.a = v ∧ t.flagsA = flagsOf t.a) ∧
      (i.opcode = Config.opcAdd →
        t.a.toNat = (s.a.toNat + v.toNat) % 65536 ∧ t.flagsA = flagsOf t.a) ∧
      (i.opcode = Config.opcSub →
        t.a.toNat = (s.a.toNat + 65536 - v.toNat) % 65536 ∧ t.flagsA = flagsOf t.a)) ∧
    ((∀ i, executedInstr s = some i →
        i.opcode ∈ [Config.opcLoad, Config.opcAdd, Config.opcSub] →
        ∀ v, srcWord i.mode i.operand s ≠ .value v) →
      t.a = s.a ∧ t.flagsA = s.flagsA)

/-- R12, R19, R46, R122: no step changes X, its flags, N or the program, so no store is ever fetched; `ip` goes up by at most one. -/
def Obligations.StepLeavesProgramAndIndexRegister : Prop :=
  ∀ s t : State, step s = .next t →
    t.x = s.x ∧ t.flagsX = s.flagsX ∧ t.memSize = s.memSize ∧ t.prog = s.prog ∧
    (t.ip = s.ip ∨ t.ip = s.ip + 1)

/-- R21, R22, R44: a step appends at most one byte to the output and at most one report to the log, never both, and takes at most one byte of input, from the front. -/
def Obligations.StreamsAreTakenAndAppendedInOrder : Prop :=
  ∀ s t : State, step s = .next t →
    (t.output = s.output ∨ ∃ b, t.output = s.output ++ [b]) ∧
    (t.errs = s.errs ∨ ∃ rep, t.errs = s.errs ++ [rep]) ∧
    (t.input = s.input ∨ ∃ b, s.input = b :: t.input) ∧
    (t.errs = s.errs ∨ (t.output = s.output ∧ t.input = s.input ∧ t.mem = s.mem ∧ t.a = s.a ∧
      t.flagsA = s.flagsA))

/-! ## Runs -/

/-- R94, R126: no run is infinite: from every state, within the instructions that are left and one step more (and one for a CHAR_IN that is being held, whose wait is a state of the model's own, log 5), the machine has halted or is stuck in a CHAR_IN on an empty input. In a state that no run reaches, with `ip` past the end of the program, no instruction is left and the fetch answers EOF (the model's choice, log 13). -/
def Obligations.EveryRunEndsOrIsStuck : Prop :=
  ∀ s : State, ∃ k t,
    k ≤ (s.prog.length - s.ip) + 1 + (if s.waiting = true then 1 else 0) ∧
    Sys2Proof.core.run k s = .next t ∧ (Ended t ∨ Stuck t)

/-- R58, R90, R94: a program encoded on the wire and loaded runs as its instructions executed once each, in order, up to the first that halts or is held; where none does, the next step halts at the sentinel. -/
def Obligations.LoadedProgramRunsInOrder : Prop :=
  ∀ (n : Nat) (is : List Instr) (rest input : List Byte), (∀ i ∈ is, i.wf = true) →
    let start := State.resetWith n (loadProgram (is.flatMap encode ++ 0x00 :: rest)) input
    ∃ k, k ≤ is.length ∧ Sys2Proof.core.run k start = .next (runInstrs is start) ∧
      (AtFetch (runInstrs is start) →
        step (runInstrs is start) =
          .next { runInstrs is start with run := .halted, haltCause := .sentinel })

/-! ## Reset and the host's interface -/

/-- R24, R120: what reset leaves: memory zero at every address, the four flags zero and not recomputed (C1, D12), RUNNING, no cause, nothing fetched, the logs empty, the streams and N as the environment gave them. That A, X and `IR` are zero is the spec's decision D11 and D13 (log 11); that nothing is held is the model's (log 5). -/
def Obligations.ResetLeaves : Prop :=
  ∀ (n : Nat) (prog : List StreamElem) (input : List Byte) (s : State),
    let t := State.resetWith n prog input
    (∀ addr, readByte t addr = 0x00) ∧
    t.a = 0x0000 ∧ t.x = 0x0000 ∧
    t.flagsA = ⟨false, false⟩ ∧ t.flagsX = ⟨false, false⟩ ∧
    t.ir = ⟨0, 0, 0, 0x0000⟩ ∧ t.run = .running ∧ t.haltCause = .none ∧ t.waiting = false ∧
    t.ip = 0 ∧ t.output = [] ∧ t.errs = [] ∧ t.prog = prog ∧ t.input = input ∧ t.memSize = n ∧
    applyReset prog input s = State.resetWith s.memSize prog input

/-- The host's interface (the model's choice, log 3; D24): an instruction of 24 bits placed where the next step fetches is fetched, decoded and executed by that step, from every state, a specifier byte of 0x00 too. -/
def Obligations.PlacedInstructionRunsNext : Prop :=
  ∀ (s : State) (w : Nat), ∃ i, decodeTableWord 24 w = some i ∧
    step (s.withFetchWord 24 w) =
      exec i { s.withFetchWord 24 w with ip := (s.withFetchWord 24 w).ip + 1, ir := i.toIR }
end

