-- ==== Sys2Proof/Laws/PerInstr.lean ====
section
/-! SUPPORT. Per-instruction laws about the syntax: the opcode map gives every instruction back from its decoded record. -/

namespace Sys2Proof.Laws.OpcodeMap

/-- The instruction of `i`'s decoded record is `i`: no field is lost between the encoder's parameters and the decoder's map. -/
def Statement (i : Instr) : Prop := Instr.ofIR i.toIR = i

theorem stop (r : Reg) (m : Mode) (w : Word) : Statement (.stop r m w) := by
  cases r <;> cases m <;> rfl
theorem load (r : Reg) (m : Mode) (w : Word) : Statement (.load r m w) := by
  cases r <;> cases m <;> rfl
theorem store (r : Reg) (m : Mode) (w : Word) : Statement (.store r m w) := by
  cases r <;> cases m <;> rfl
theorem add (r : Reg) (m : Mode) (w : Word) : Statement (.add r m w) := by
  cases r <;> cases m <;> rfl
theorem sub (r : Reg) (m : Mode) (w : Word) : Statement (.sub r m w) := by
  cases r <;> cases m <;> rfl
theorem unknown5 (r : Reg) (m : Mode) (w : Word) : Statement (.unknown5 r m w) := by
  cases r <;> cases m <;> rfl
theorem unknown6 (r : Reg) (m : Mode) (w : Word) : Statement (.unknown6 r m w) := by
  cases r <;> cases m <;> rfl
theorem unknown7 (r : Reg) (m : Mode) (w : Word) : Statement (.unknown7 r m w) := by
  cases r <;> cases m <;> rfl
theorem unknown8 (r : Reg) (m : Mode) (w : Word) : Statement (.unknown8 r m w) := by
  cases r <;> cases m <;> rfl
theorem unknown9 (r : Reg) (m : Mode) (w : Word) : Statement (.unknown9 r m w) := by
  cases r <;> cases m <;> rfl
theorem unknown10 (r : Reg) (m : Mode) (w : Word) : Statement (.unknown10 r m w) := by
  cases r <;> cases m <;> rfl
theorem unknown11 (r : Reg) (m : Mode) (w : Word) : Statement (.unknown11 r m w) := by
  cases r <;> cases m <;> rfl
theorem unknown12 (r : Reg) (m : Mode) (w : Word) : Statement (.unknown12 r m w) := by
  cases r <;> cases m <;> rfl
theorem unknown13 (r : Reg) (m : Mode) (w : Word) : Statement (.unknown13 r m w) := by
  cases r <;> cases m <;> rfl
theorem unknown14 (r : Reg) (m : Mode) (w : Word) : Statement (.unknown14 r m w) := by
  cases r <;> cases m <;> rfl
theorem unknown15 (r : Reg) (m : Mode) (w : Word) : Statement (.unknown15 r m w) := by
  cases r <;> cases m <;> rfl
theorem unknown16 (r : Reg) (m : Mode) (w : Word) : Statement (.unknown16 r m w) := by
  cases r <;> cases m <;> rfl
theorem unknown17 (r : Reg) (m : Mode) (w : Word) : Statement (.unknown17 r m w) := by
  cases r <;> cases m <;> rfl
theorem unknown18 (r : Reg) (m : Mode) (w : Word) : Statement (.unknown18 r m w) := by
  cases r <;> cases m <;> rfl
theorem unknown19 (r : Reg) (m : Mode) (w : Word) : Statement (.unknown19 r m w) := by
  cases r <;> cases m <;> rfl
theorem unknown20 (r : Reg) (m : Mode) (w : Word) : Statement (.unknown20 r m w) := by
  cases r <;> cases m <;> rfl
theorem unknown21 (r : Reg) (m : Mode) (w : Word) : Statement (.unknown21 r m w) := by
  cases r <;> cases m <;> rfl
theorem unknown22 (r : Reg) (m : Mode) (w : Word) : Statement (.unknown22 r m w) := by
  cases r <;> cases m <;> rfl
theorem unknown23 (r : Reg) (m : Mode) (w : Word) : Statement (.unknown23 r m w) := by
  cases r <;> cases m <;> rfl
theorem unknown24 (r : Reg) (m : Mode) (w : Word) : Statement (.unknown24 r m w) := by
  cases r <;> cases m <;> rfl
theorem unknown25 (r : Reg) (m : Mode) (w : Word) : Statement (.unknown25 r m w) := by
  cases r <;> cases m <;> rfl
theorem unknown26 (r : Reg) (m : Mode) (w : Word) : Statement (.unknown26 r m w) := by
  cases r <;> cases m <;> rfl
theorem charIn (r : Reg) (m : Mode) (w : Word) : Statement (.charIn r m w) := by
  cases r <;> cases m <;> rfl
theorem charOut (r : Reg) (m : Mode) (w : Word) : Statement (.charOut r m w) := by
  cases r <;> cases m <;> rfl
theorem unknown29 (r : Reg) (m : Mode) (w : Word) : Statement (.unknown29 r m w) := by
  cases r <;> cases m <;> rfl
theorem unknown30 (r : Reg) (m : Mode) (w : Word) : Statement (.unknown30 r m w) := by
  cases r <;> cases m <;> rfl
theorem unknown31 (r : Reg) (m : Mode) (w : Word) : Statement (.unknown31 r m w) := by
  cases r <;> cases m <;> rfl

end Sys2Proof.Laws.OpcodeMap
end

