-- ==== Sys2Proof/Laws/Encoding.lean ====
section
/-! SUPPORT. The specifier byte and the operand bytes, taken apart and put together (30_encoding.md R51, R52). -/

namespace Sys2Proof

/-- The fields of a specifier byte put together again are the byte (R51). -/
theorem specifier_decodeFields (spec : Byte) (operand : Word) :
    (decodeFields spec operand).specifier = spec := by
  revert spec
  simp only [InstrReg.specifier, decodeFields]
  decide

/-- The fields of a decoded record's specifier byte are the record's (R51). -/
theorem decodeFields_specifier (ir : InstrReg) : decodeFields ir.specifier ir.operand = ir := by
  obtain ⟨op, rs, md, w⟩ := ir
  have h : ∀ (op : BitVec 5) (rs : BitVec 1) (md : BitVec 2),
      (op ++ rs ++ md : BitVec 8).extractLsb 7 3 = op ∧
      (op ++ rs ++ md : BitVec 8).extractLsb 2 2 = rs ∧
      (op ++ rs ++ md : BitVec 8).extractLsb 1 0 = md := by decide
  obtain ⟨h1, h2, h3⟩ := h op rs md
  simp only [decodeFields, InstrReg.specifier, InstrReg.mk.injEq]
  exact ⟨h1, h2, h3, trivial⟩

/-- The high and the low byte of a word put together again are the word. -/
theorem append_highByte_lowByte (v : Word) : (v.extractLsb 15 8 ++ v.extractLsb 7 0 : Word) = v := by
  apply BitVec.eq_of_getLsbD_eq
  intro i hi
  simp only [BitVec.getLsbD_append, BitVec.getLsbD_extractLsb]
  split
  · simp; omega
  · rw [decide_eq_true (by omega), Bool.true_and]; congr 1; omega

/-- The high byte of two bytes put together. -/
theorem highByte_append (b c : Byte) : (b ++ c : Word).extractLsb 15 8 = b := by
  apply BitVec.eq_of_getLsbD_eq
  intro i hi
  simp only [BitVec.getLsbD_append, BitVec.getLsbD_extractLsb]
  simp
  omega

/-- The low byte of two bytes put together. -/
theorem lowByte_append (b c : Byte) : (b ++ c : Word).extractLsb 7 0 = c := by
  apply BitVec.eq_of_getLsbD_eq
  intro i hi
  have h : i < 8 := hi
  simp only [BitVec.getLsbD_append, BitVec.getLsbD_extractLsb]
  simp [h]

/-- The two operand bytes on the wire put together again are the operand (R52). -/
theorem operandOfWire_bytes (w : Word) : operandOfWire (wireFirst w) (wireSecond w) = w :=
  append_highByte_lowByte w

/-- The first wire byte of an operand is the high one (R52). -/
theorem wireFirst_operandOfWire (b c : Byte) : wireFirst (operandOfWire b c) = b :=
  highByte_append b c

/-- The second wire byte of an operand is the low one (R52). -/
theorem wireSecond_operandOfWire (b c : Byte) : wireSecond (operandOfWire b c) = c :=
  lowByte_append b c

/-- The register-select bit and the mode field read back (R56, R57). -/
@[simp] theorem Reg.ofBits_bits (r : Reg) : Reg.ofBits r.bits = r := by cases r <;> rfl
@[simp] theorem Reg.bits_ofBits (b : BitVec 1) : (Reg.ofBits b).bits = b := by revert b; decide
@[simp] theorem Mode.ofBits_bits (m : Mode) : Mode.ofBits m.bits = m := by cases m <;> rfl
@[simp] theorem Mode.bits_ofBits (b : BitVec 2) : (Mode.ofBits b).bits = b := by revert b; decide

/-- The specifier byte is 0x00 for exactly one register select, mode and opcode (R58, R60). -/
theorem Instr.specifier_eq_zero (i : Instr) :
    i.specifier = 0x00 ↔ i.opcode = 0 ∧ i.reg = .a ∧ i.mode = .immediate := by
  have h : ∀ (op : BitVec 5) (r : Reg) (m : Mode),
      (op ++ r.bits ++ m.bits : BitVec 8) = 0x00 ↔ op = 0 ∧ r = .a ∧ m = .immediate := by
    intro op r m; revert op; cases r <;> cases m <;> decide
  exact h i.opcode i.reg i.mode

end Sys2Proof
end

