-- ==== Sys2Proof/Laws/State.lean ====
section
/-! SUPPORT. One lemma per field per named update of the state, true by unfolding; later proofs cite these and unfold no record update. -/

namespace Sys2Proof.Machine

variable (s : State)

/-! ### memWrite1 -/

@[simp] theorem memWrite1_a (addr : Nat) (b : Byte) : (memWrite1 addr b s).a = s.a := rfl
@[simp] theorem memWrite1_x (addr : Nat) (b : Byte) : (memWrite1 addr b s).x = s.x := rfl
@[simp] theorem memWrite1_flagsA (addr : Nat) (b : Byte) : (memWrite1 addr b s).flagsA = s.flagsA := rfl
@[simp] theorem memWrite1_flagsX (addr : Nat) (b : Byte) : (memWrite1 addr b s).flagsX = s.flagsX := rfl
@[simp] theorem memWrite1_ir (addr : Nat) (b : Byte) : (memWrite1 addr b s).ir = s.ir := rfl
@[simp] theorem memWrite1_memSize (addr : Nat) (b : Byte) : (memWrite1 addr b s).memSize = s.memSize := rfl
@[simp] theorem memWrite1_mem (addr : Nat) (b : Byte) : (memWrite1 addr b s).mem = Memory.write s.mem addr b := rfl
@[simp] theorem memWrite1_run (addr : Nat) (b : Byte) : (memWrite1 addr b s).run = s.run := rfl
@[simp] theorem memWrite1_haltCause (addr : Nat) (b : Byte) : (memWrite1 addr b s).haltCause = s.haltCause := rfl
@[simp] theorem memWrite1_waiting (addr : Nat) (b : Byte) : (memWrite1 addr b s).waiting = s.waiting := rfl
@[simp] theorem memWrite1_prog (addr : Nat) (b : Byte) : (memWrite1 addr b s).prog = s.prog := rfl
@[simp] theorem memWrite1_ip (addr : Nat) (b : Byte) : (memWrite1 addr b s).ip = s.ip := rfl
@[simp] theorem memWrite1_input (addr : Nat) (b : Byte) : (memWrite1 addr b s).input = s.input := rfl
@[simp] theorem memWrite1_output (addr : Nat) (b : Byte) : (memWrite1 addr b s).output = s.output := rfl
@[simp] theorem memWrite1_errs (addr : Nat) (b : Byte) : (memWrite1 addr b s).errs = s.errs := rfl

/-! ### memWrite2 -/

@[simp] theorem memWrite2_a (addr : Nat) (v : Word) : (memWrite2 addr v s).a = s.a := rfl
@[simp] theorem memWrite2_x (addr : Nat) (v : Word) : (memWrite2 addr v s).x = s.x := rfl
@[simp] theorem memWrite2_flagsA (addr : Nat) (v : Word) : (memWrite2 addr v s).flagsA = s.flagsA := rfl
@[simp] theorem memWrite2_flagsX (addr : Nat) (v : Word) : (memWrite2 addr v s).flagsX = s.flagsX := rfl
@[simp] theorem memWrite2_ir (addr : Nat) (v : Word) : (memWrite2 addr v s).ir = s.ir := rfl
@[simp] theorem memWrite2_memSize (addr : Nat) (v : Word) : (memWrite2 addr v s).memSize = s.memSize := rfl
@[simp] theorem memWrite2_mem (addr : Nat) (v : Word) : (memWrite2 addr v s).mem = Memory.write (Memory.write s.mem addr (lowerAddressByte v)) (addr + 1) (higherAddressByte v) := rfl
@[simp] theorem memWrite2_run (addr : Nat) (v : Word) : (memWrite2 addr v s).run = s.run := rfl
@[simp] theorem memWrite2_haltCause (addr : Nat) (v : Word) : (memWrite2 addr v s).haltCause = s.haltCause := rfl
@[simp] theorem memWrite2_waiting (addr : Nat) (v : Word) : (memWrite2 addr v s).waiting = s.waiting := rfl
@[simp] theorem memWrite2_prog (addr : Nat) (v : Word) : (memWrite2 addr v s).prog = s.prog := rfl
@[simp] theorem memWrite2_ip (addr : Nat) (v : Word) : (memWrite2 addr v s).ip = s.ip := rfl
@[simp] theorem memWrite2_input (addr : Nat) (v : Word) : (memWrite2 addr v s).input = s.input := rfl
@[simp] theorem memWrite2_output (addr : Nat) (v : Word) : (memWrite2 addr v s).output = s.output := rfl
@[simp] theorem memWrite2_errs (addr : Nat) (v : Word) : (memWrite2 addr v s).errs = s.errs := rfl

/-! ### setIrOperand -/

@[simp] theorem setIrOperand_a (v : Word) : (setIrOperand v s).a = s.a := rfl
@[simp] theorem setIrOperand_x (v : Word) : (setIrOperand v s).x = s.x := rfl
@[simp] theorem setIrOperand_flagsA (v : Word) : (setIrOperand v s).flagsA = s.flagsA := rfl
@[simp] theorem setIrOperand_flagsX (v : Word) : (setIrOperand v s).flagsX = s.flagsX := rfl
@[simp] theorem setIrOperand_ir (v : Word) : (setIrOperand v s).ir = { s.ir with operand := v } := rfl
@[simp] theorem setIrOperand_memSize (v : Word) : (setIrOperand v s).memSize = s.memSize := rfl
@[simp] theorem setIrOperand_mem (v : Word) : (setIrOperand v s).mem = s.mem := rfl
@[simp] theorem setIrOperand_run (v : Word) : (setIrOperand v s).run = s.run := rfl
@[simp] theorem setIrOperand_haltCause (v : Word) : (setIrOperand v s).haltCause = s.haltCause := rfl
@[simp] theorem setIrOperand_waiting (v : Word) : (setIrOperand v s).waiting = s.waiting := rfl
@[simp] theorem setIrOperand_prog (v : Word) : (setIrOperand v s).prog = s.prog := rfl
@[simp] theorem setIrOperand_ip (v : Word) : (setIrOperand v s).ip = s.ip := rfl
@[simp] theorem setIrOperand_input (v : Word) : (setIrOperand v s).input = s.input := rfl
@[simp] theorem setIrOperand_output (v : Word) : (setIrOperand v s).output = s.output := rfl
@[simp] theorem setIrOperand_errs (v : Word) : (setIrOperand v s).errs = s.errs := rfl

/-! ### holdForInput -/

@[simp] theorem holdForInput_a : (holdForInput s).a = s.a := rfl
@[simp] theorem holdForInput_x : (holdForInput s).x = s.x := rfl
@[simp] theorem holdForInput_flagsA : (holdForInput s).flagsA = s.flagsA := rfl
@[simp] theorem holdForInput_flagsX : (holdForInput s).flagsX = s.flagsX := rfl
@[simp] theorem holdForInput_ir : (holdForInput s).ir = s.ir := rfl
@[simp] theorem holdForInput_memSize : (holdForInput s).memSize = s.memSize := rfl
@[simp] theorem holdForInput_mem : (holdForInput s).mem = s.mem := rfl
@[simp] theorem holdForInput_run : (holdForInput s).run = s.run := rfl
@[simp] theorem holdForInput_haltCause : (holdForInput s).haltCause = s.haltCause := rfl
@[simp] theorem holdForInput_waiting : (holdForInput s).waiting = true := rfl
@[simp] theorem holdForInput_prog : (holdForInput s).prog = s.prog := rfl
@[simp] theorem holdForInput_ip : (holdForInput s).ip = s.ip := rfl
@[simp] theorem holdForInput_input : (holdForInput s).input = s.input := rfl
@[simp] theorem holdForInput_output : (holdForInput s).output = s.output := rfl
@[simp] theorem holdForInput_errs : (holdForInput s).errs = s.errs := rfl

/-! ### endHold -/

@[simp] theorem endHold_a : (endHold s).a = s.a := rfl
@[simp] theorem endHold_x : (endHold s).x = s.x := rfl
@[simp] theorem endHold_flagsA : (endHold s).flagsA = s.flagsA := rfl
@[simp] theorem endHold_flagsX : (endHold s).flagsX = s.flagsX := rfl
@[simp] theorem endHold_ir : (endHold s).ir = s.ir := rfl
@[simp] theorem endHold_memSize : (endHold s).memSize = s.memSize := rfl
@[simp] theorem endHold_mem : (endHold s).mem = s.mem := rfl
@[simp] theorem endHold_run : (endHold s).run = s.run := rfl
@[simp] theorem endHold_haltCause : (endHold s).haltCause = s.haltCause := rfl
@[simp] theorem endHold_waiting : (endHold s).waiting = false := rfl
@[simp] theorem endHold_prog : (endHold s).prog = s.prog := rfl
@[simp] theorem endHold_ip : (endHold s).ip = s.ip := rfl
@[simp] theorem endHold_input : (endHold s).input = s.input := rfl
@[simp] theorem endHold_output : (endHold s).output = s.output := rfl
@[simp] theorem endHold_errs : (endHold s).errs = s.errs := rfl

/-! ### outWrite -/

@[simp] theorem outWrite_a (b : Byte) : (outWrite b s).a = s.a := rfl
@[simp] theorem outWrite_x (b : Byte) : (outWrite b s).x = s.x := rfl
@[simp] theorem outWrite_flagsA (b : Byte) : (outWrite b s).flagsA = s.flagsA := rfl
@[simp] theorem outWrite_flagsX (b : Byte) : (outWrite b s).flagsX = s.flagsX := rfl
@[simp] theorem outWrite_ir (b : Byte) : (outWrite b s).ir = s.ir := rfl
@[simp] theorem outWrite_memSize (b : Byte) : (outWrite b s).memSize = s.memSize := rfl
@[simp] theorem outWrite_mem (b : Byte) : (outWrite b s).mem = s.mem := rfl
@[simp] theorem outWrite_run (b : Byte) : (outWrite b s).run = s.run := rfl
@[simp] theorem outWrite_haltCause (b : Byte) : (outWrite b s).haltCause = s.haltCause := rfl
@[simp] theorem outWrite_waiting (b : Byte) : (outWrite b s).waiting = s.waiting := rfl
@[simp] theorem outWrite_prog (b : Byte) : (outWrite b s).prog = s.prog := rfl
@[simp] theorem outWrite_ip (b : Byte) : (outWrite b s).ip = s.ip := rfl
@[simp] theorem outWrite_input (b : Byte) : (outWrite b s).input = s.input := rfl
@[simp] theorem outWrite_output (b : Byte) : (outWrite b s).output = s.output ++ [b] := rfl
@[simp] theorem outWrite_errs (b : Byte) : (outWrite b s).errs = s.errs := rfl

/-! ### halt -/

@[simp] theorem halt_a (c : HaltCause) : (halt c s).a = s.a := rfl
@[simp] theorem halt_x (c : HaltCause) : (halt c s).x = s.x := rfl
@[simp] theorem halt_flagsA (c : HaltCause) : (halt c s).flagsA = s.flagsA := rfl
@[simp] theorem halt_flagsX (c : HaltCause) : (halt c s).flagsX = s.flagsX := rfl
@[simp] theorem halt_ir (c : HaltCause) : (halt c s).ir = s.ir := rfl
@[simp] theorem halt_memSize (c : HaltCause) : (halt c s).memSize = s.memSize := rfl
@[simp] theorem halt_mem (c : HaltCause) : (halt c s).mem = s.mem := rfl
@[simp] theorem halt_run (c : HaltCause) : (halt c s).run = RunState.halted := rfl
@[simp] theorem halt_haltCause (c : HaltCause) : (halt c s).haltCause = c := rfl
@[simp] theorem halt_waiting (c : HaltCause) : (halt c s).waiting = s.waiting := rfl
@[simp] theorem halt_prog (c : HaltCause) : (halt c s).prog = s.prog := rfl
@[simp] theorem halt_ip (c : HaltCause) : (halt c s).ip = s.ip := rfl
@[simp] theorem halt_input (c : HaltCause) : (halt c s).input = s.input := rfl
@[simp] theorem halt_output (c : HaltCause) : (halt c s).output = s.output := rfl
@[simp] theorem halt_errs (c : HaltCause) : (halt c s).errs = s.errs := rfl

/-! ### logError -/

@[simp] theorem logError_a (rep : Report) : (logError rep s).a = s.a := rfl
@[simp] theorem logError_x (rep : Report) : (logError rep s).x = s.x := rfl
@[simp] theorem logError_flagsA (rep : Report) : (logError rep s).flagsA = s.flagsA := rfl
@[simp] theorem logError_flagsX (rep : Report) : (logError rep s).flagsX = s.flagsX := rfl
@[simp] theorem logError_ir (rep : Report) : (logError rep s).ir = s.ir := rfl
@[simp] theorem logError_memSize (rep : Report) : (logError rep s).memSize = s.memSize := rfl
@[simp] theorem logError_mem (rep : Report) : (logError rep s).mem = s.mem := rfl
@[simp] theorem logError_run (rep : Report) : (logError rep s).run = s.run := rfl
@[simp] theorem logError_haltCause (rep : Report) : (logError rep s).haltCause = s.haltCause := rfl
@[simp] theorem logError_waiting (rep : Report) : (logError rep s).waiting = s.waiting := rfl
@[simp] theorem logError_prog (rep : Report) : (logError rep s).prog = s.prog := rfl
@[simp] theorem logError_ip (rep : Report) : (logError rep s).ip = s.ip := rfl
@[simp] theorem logError_input (rep : Report) : (logError rep s).input = s.input := rfl
@[simp] theorem logError_output (rep : Report) : (logError rep s).output = s.output := rfl
@[simp] theorem logError_errs (rep : Report) : (logError rep s).errs = s.errs ++ [rep] := rfl

/-! ### takeInstr -/

@[simp] theorem takeInstr_a (spec : Byte) (operand : Word) : (takeInstr spec operand s).a = s.a := rfl
@[simp] theorem takeInstr_x (spec : Byte) (operand : Word) : (takeInstr spec operand s).x = s.x := rfl
@[simp] theorem takeInstr_flagsA (spec : Byte) (operand : Word) : (takeInstr spec operand s).flagsA = s.flagsA := rfl
@[simp] theorem takeInstr_flagsX (spec : Byte) (operand : Word) : (takeInstr spec operand s).flagsX = s.flagsX := rfl
@[simp] theorem takeInstr_ir (spec : Byte) (operand : Word) : (takeInstr spec operand s).ir = decodeFields spec operand := rfl
@[simp] theorem takeInstr_memSize (spec : Byte) (operand : Word) : (takeInstr spec operand s).memSize = s.memSize := rfl
@[simp] theorem takeInstr_mem (spec : Byte) (operand : Word) : (takeInstr spec operand s).mem = s.mem := rfl
@[simp] theorem takeInstr_run (spec : Byte) (operand : Word) : (takeInstr spec operand s).run = s.run := rfl
@[simp] theorem takeInstr_haltCause (spec : Byte) (operand : Word) : (takeInstr spec operand s).haltCause = s.haltCause := rfl
@[simp] theorem takeInstr_waiting (spec : Byte) (operand : Word) : (takeInstr spec operand s).waiting = s.waiting := rfl
@[simp] theorem takeInstr_prog (spec : Byte) (operand : Word) : (takeInstr spec operand s).prog = s.prog := rfl
@[simp] theorem takeInstr_ip (spec : Byte) (operand : Word) : (takeInstr spec operand s).ip = s.ip + 1 := rfl
@[simp] theorem takeInstr_input (spec : Byte) (operand : Word) : (takeInstr spec operand s).input = s.input := rfl
@[simp] theorem takeInstr_output (spec : Byte) (operand : Word) : (takeInstr spec operand s).output = s.output := rfl
@[simp] theorem takeInstr_errs (spec : Byte) (operand : Word) : (takeInstr spec operand s).errs = s.errs := rfl

/-! ### supplyInput -/

@[simp] theorem supplyInput_a (b : Byte) : (supplyInput b s).a = s.a := rfl
@[simp] theorem supplyInput_x (b : Byte) : (supplyInput b s).x = s.x := rfl
@[simp] theorem supplyInput_flagsA (b : Byte) : (supplyInput b s).flagsA = s.flagsA := rfl
@[simp] theorem supplyInput_flagsX (b : Byte) : (supplyInput b s).flagsX = s.flagsX := rfl
@[simp] theorem supplyInput_ir (b : Byte) : (supplyInput b s).ir = s.ir := rfl
@[simp] theorem supplyInput_memSize (b : Byte) : (supplyInput b s).memSize = s.memSize := rfl
@[simp] theorem supplyInput_mem (b : Byte) : (supplyInput b s).mem = s.mem := rfl
@[simp] theorem supplyInput_run (b : Byte) : (supplyInput b s).run = s.run := rfl
@[simp] theorem supplyInput_haltCause (b : Byte) : (supplyInput b s).haltCause = s.haltCause := rfl
@[simp] theorem supplyInput_waiting (b : Byte) : (supplyInput b s).waiting = s.waiting := rfl
@[simp] theorem supplyInput_prog (b : Byte) : (supplyInput b s).prog = s.prog := rfl
@[simp] theorem supplyInput_ip (b : Byte) : (supplyInput b s).ip = s.ip := rfl
@[simp] theorem supplyInput_input (b : Byte) : (supplyInput b s).input = s.input ++ [b] := rfl
@[simp] theorem supplyInput_output (b : Byte) : (supplyInput b s).output = s.output := rfl
@[simp] theorem supplyInput_errs (b : Byte) : (supplyInput b s).errs = s.errs := rfl

/-! ### setRegister -/

@[simp] theorem setRegister_ir (r : Reg) (v : Word) : (setRegister r v s).ir = s.ir := by
  cases r <;> rfl
@[simp] theorem setRegister_memSize (r : Reg) (v : Word) : (setRegister r v s).memSize = s.memSize := by
  cases r <;> rfl
@[simp] theorem setRegister_mem (r : Reg) (v : Word) : (setRegister r v s).mem = s.mem := by
  cases r <;> rfl
@[simp] theorem setRegister_run (r : Reg) (v : Word) : (setRegister r v s).run = s.run := by
  cases r <;> rfl
@[simp] theorem setRegister_haltCause (r : Reg) (v : Word) : (setRegister r v s).haltCause = s.haltCause := by
  cases r <;> rfl
@[simp] theorem setRegister_waiting (r : Reg) (v : Word) : (setRegister r v s).waiting = s.waiting := by
  cases r <;> rfl
@[simp] theorem setRegister_prog (r : Reg) (v : Word) : (setRegister r v s).prog = s.prog := by
  cases r <;> rfl
@[simp] theorem setRegister_ip (r : Reg) (v : Word) : (setRegister r v s).ip = s.ip := by
  cases r <;> rfl
@[simp] theorem setRegister_input (r : Reg) (v : Word) : (setRegister r v s).input = s.input := by
  cases r <;> rfl
@[simp] theorem setRegister_output (r : Reg) (v : Word) : (setRegister r v s).output = s.output := by
  cases r <;> rfl
@[simp] theorem setRegister_errs (r : Reg) (v : Word) : (setRegister r v s).errs = s.errs := by
  cases r <;> rfl
@[simp] theorem setRegister_a_a (v : Word) : (setRegister .a v s).a = v := rfl
@[simp] theorem setRegister_a_flagsA (v : Word) : (setRegister .a v s).flagsA = flagsOf v := rfl
@[simp] theorem setRegister_a_x (v : Word) : (setRegister .a v s).x = s.x := rfl
@[simp] theorem setRegister_a_flagsX (v : Word) : (setRegister .a v s).flagsX = s.flagsX := rfl
@[simp] theorem setRegister_x_a (v : Word) : (setRegister .x v s).a = s.a := rfl
@[simp] theorem setRegister_x_flagsA (v : Word) : (setRegister .x v s).flagsA = s.flagsA := rfl
@[simp] theorem setRegister_x_x (v : Word) : (setRegister .x v s).x = v := rfl
@[simp] theorem setRegister_x_flagsX (v : Word) : (setRegister .x v s).flagsX = flagsOf v := rfl

/-! ### raise -/

@[simp] theorem raise_a (k : ErrorKind) (i : Instr) : (raise k i s).a = s.a := by
  unfold raise; split <;> rfl
@[simp] theorem raise_x (k : ErrorKind) (i : Instr) : (raise k i s).x = s.x := by
  unfold raise; split <;> rfl
@[simp] theorem raise_flagsA (k : ErrorKind) (i : Instr) : (raise k i s).flagsA = s.flagsA := by
  unfold raise; split <;> rfl
@[simp] theorem raise_flagsX (k : ErrorKind) (i : Instr) : (raise k i s).flagsX = s.flagsX := by
  unfold raise; split <;> rfl
@[simp] theorem raise_ir (k : ErrorKind) (i : Instr) : (raise k i s).ir = s.ir := by
  unfold raise; split <;> rfl
@[simp] theorem raise_memSize (k : ErrorKind) (i : Instr) : (raise k i s).memSize = s.memSize := by
  unfold raise; split <;> rfl
@[simp] theorem raise_mem (k : ErrorKind) (i : Instr) : (raise k i s).mem = s.mem := by
  unfold raise; split <;> rfl
@[simp] theorem raise_waiting (k : ErrorKind) (i : Instr) : (raise k i s).waiting = s.waiting := by
  unfold raise; split <;> rfl
@[simp] theorem raise_prog (k : ErrorKind) (i : Instr) : (raise k i s).prog = s.prog := by
  unfold raise; split <;> rfl
@[simp] theorem raise_ip (k : ErrorKind) (i : Instr) : (raise k i s).ip = s.ip := by
  unfold raise; split <;> rfl
@[simp] theorem raise_input (k : ErrorKind) (i : Instr) : (raise k i s).input = s.input := by
  unfold raise; split <;> rfl
@[simp] theorem raise_output (k : ErrorKind) (i : Instr) : (raise k i s).output = s.output := by
  unfold raise; split <;> rfl
@[simp] theorem raise_errs (k : ErrorKind) (i : Instr) : (raise k i s).errs = s.errs ++ [reportOf k i] := by
  unfold raise; split <;> rfl
@[simp] theorem raise_run (k : ErrorKind) (i : Instr) :
    (raise k i s).run = if k.fatal then .halted else s.run := by
  unfold raise; split <;> rfl
@[simp] theorem raise_haltCause (k : ErrorKind) (i : Instr) :
    (raise k i s).haltCause = if k.fatal then .outOfRange else s.haltCause := by
  unfold raise; split <;> rfl

/-! ### reset -/

@[simp] theorem resetWith_a (n : Nat) (prog : List StreamElem) (input : List Byte) :
    (State.resetWith n prog input).a = Config.resetA := rfl
@[simp] theorem resetWith_x (n : Nat) (prog : List StreamElem) (input : List Byte) :
    (State.resetWith n prog input).x = Config.resetX := rfl
@[simp] theorem resetWith_flagsA (n : Nat) (prog : List StreamElem) (input : List Byte) :
    (State.resetWith n prog input).flagsA = ⟨false, false⟩ := rfl
@[simp] theorem resetWith_flagsX (n : Nat) (prog : List StreamElem) (input : List Byte) :
    (State.resetWith n prog input).flagsX = ⟨false, false⟩ := rfl
@[simp] theorem resetWith_ir (n : Nat) (prog : List StreamElem) (input : List Byte) :
    (State.resetWith n prog input).ir = ⟨0, 0, 0, 0x0000⟩ := rfl
@[simp] theorem resetWith_memSize (n : Nat) (prog : List StreamElem) (input : List Byte) :
    (State.resetWith n prog input).memSize = n := rfl
@[simp] theorem resetWith_mem (n : Nat) (prog : List StreamElem) (input : List Byte) :
    (State.resetWith n prog input).mem = [] := rfl
@[simp] theorem resetWith_run (n : Nat) (prog : List StreamElem) (input : List Byte) :
    (State.resetWith n prog input).run = .running := rfl
@[simp] theorem resetWith_haltCause (n : Nat) (prog : List StreamElem) (input : List Byte) :
    (State.resetWith n prog input).haltCause = .none := rfl
@[simp] theorem resetWith_waiting (n : Nat) (prog : List StreamElem) (input : List Byte) :
    (State.resetWith n prog input).waiting = false := rfl
@[simp] theorem resetWith_prog (n : Nat) (prog : List StreamElem) (input : List Byte) :
    (State.resetWith n prog input).prog = prog := rfl
@[simp] theorem resetWith_ip (n : Nat) (prog : List StreamElem) (input : List Byte) :
    (State.resetWith n prog input).ip = 0 := rfl
@[simp] theorem resetWith_input (n : Nat) (prog : List StreamElem) (input : List Byte) :
    (State.resetWith n prog input).input = input := rfl
@[simp] theorem resetWith_output (n : Nat) (prog : List StreamElem) (input : List Byte) :
    (State.resetWith n prog input).output = [] := rfl
@[simp] theorem resetWith_errs (n : Nat) (prog : List StreamElem) (input : List Byte) :
    (State.resetWith n prog input).errs = [] := rfl

end Sys2Proof.Machine
end

