-- ==== Sys2Proof/Laws/Operands.lean ====
section
/-! SUPPORT. What the multiplexer can answer, said once (20_memory.md R40 to R43), and what an instruction over a source can do. -/

namespace Sys2Proof.Machine

theorem srcWord_cases (m : Mode) (w : Word) (s : State) :
    (m = .immediate ∧ srcWord m w s = .value w) ∨
    (m = .direct ∧ inRange (effectiveAddress w) 2 s = true ∧
      srcWord m w s = .value (memRead2 (effectiveAddress w) s)) ∨
    (m = .direct ∧ inRange (effectiveAddress w) 2 s = false ∧ srcWord m w s = .outOfRange) ∨
    ((m = .mode2 ∨ m = .mode3) ∧ srcWord m w s = .invalid) := by
  cases m <;> cases h : inRange (effectiveAddress w) 2 s <;> simp [srcWord, h]

theorem srcByte_cases (m : Mode) (w : Word) (s : State) :
    (m = .immediate ∧ srcByte m w s = .value (w.extractLsb 7 0)) ∨
    (m = .direct ∧ inRange (effectiveAddress w) 1 s = true ∧
      srcByte m w s = .value (memRead1 (effectiveAddress w) s)) ∨
    (m = .direct ∧ inRange (effectiveAddress w) 1 s = false ∧ srcByte m w s = .outOfRange) ∨
    ((m = .mode2 ∨ m = .mode3) ∧ srcByte m w s = .invalid) := by
  cases m <;> cases h : inRange (effectiveAddress w) 1 s <;> simp [srcByte, h]

theorem dest_cases (m : Mode) (w : Word) (n : Nat) (s : State) :
    (m = .immediate ∧ dest m w n s = .operandField) ∨
    (m = .direct ∧ inRange (effectiveAddress w) n s = true ∧
      dest m w n s = .memAt (effectiveAddress w)) ∨
    (m = .direct ∧ inRange (effectiveAddress w) n s = false ∧ dest m w n s = .outOfRange) ∨
    ((m = .mode2 ∨ m = .mode3) ∧ dest m w n s = .invalid) := by
  cases m <;> cases h : inRange (effectiveAddress w) n s <;> simp [dest, h]

/-- An instruction over a source raises one of two errors or has its effect. -/
theorem withSource_cases {α : Type} (i : Instr) (src : Source α) (effect : α → State) (s : State) :
    (src = .invalid ∧ withSource i src effect s = raise .invalidAddressingMode i s) ∨
    (src = .outOfRange ∧ withSource i src effect s = raise .outOfRangeAddress i s) ∨
    (∃ v, src = .value v ∧ withSource i src effect s = effect v) := by
  cases src <;> simp [withSource]

/-- Address bounds as a fact of naturals (R32). -/
theorem inRange_iff (addr n : Nat) (s : State) : inRange addr n s = true ↔ addr + n ≤ s.memSize := by
  simp [inRange]

theorem inRange_eq_false (addr n : Nat) (s : State) :
    inRange addr n s = false ↔ s.memSize < addr + n := by
  simp [inRange]

end Sys2Proof.Machine
end

