-- ==== Sys2Proof/Laws/Instructions.lean ====
section
/-! SUPPORT. What an instruction can do, said once: `exec` always answers a next state, and that state is one of eight. Frames, invariants and whole-machine rules are read off this lemma. -/

namespace Sys2Proof.Machine

/-- The fields of a report are those of the instruction it is about (R100). -/
theorem decodeFields_reportOf (k : ErrorKind) (i : Instr) :
    decodeFields (reportOf k i).spec (reportOf k i).operand = i.toIR :=
  decodeFields_specifier i.toIR

/-- The report of an error is justified when its instruction causes the error (R105). -/
theorem reportOf_justified_unknown {i : Instr} (n : Nat) (h : i.opcode ∉ Config.recognizedOpcodes) :
    (reportOf .unknownOpcode i).justified n := by
  unfold Report.justified; rw [decodeFields_reportOf]; exact h

theorem reportOf_justified_mode {i : Instr} (n : Nat) (h : accessWidth i.opcode ≠ none)
    (hm : rejectsMode i.opcode i.mode.bits = true) :
    (reportOf .invalidAddressingMode i).justified n := by
  unfold Report.justified; rw [decodeFields_reportOf]; exact ⟨h, hm⟩

theorem reportOf_justified_address {i : Instr} {n width : Nat} (h : accessWidth i.opcode = some width)
    (hm : i.mode = .direct) (ha : n < i.operand.toNat + width) :
    (reportOf .outOfRangeAddress i).justified n := by
  unfold Report.justified; rw [decodeFields_reportOf]
  exact ⟨width, h, by simp [Instr.toIR, hm, Mode.bits], ha⟩

/-- The eight things an instruction can do to the state (R70 to R86). -/
inductive Effect (i : Instr) (s : State) : State → Prop where
  /-- STOP. -/
  | stop (h : i.opcode = Config.opcStop) : Effect i s (halt .stop s)
  /-- An error, the whole effect (R100). -/
  | error (k : ErrorKind) (h : (reportOf k i).justified s.memSize)
      (hop : i.opcode ≠ Config.opcStop) : Effect i s (raise k i s)
  /-- LOAD, ADD, SUB. -/
  | accumulate (v : Word) (h : i.opcode ∈ [Config.opcLoad, Config.opcAdd, Config.opcSub]) :
      Effect i s (setRegister .a v s)
  /-- STORE in Immediate mode. -/
  | storeOperand (h : i.opcode = Config.opcStore) (hm : i.mode = .immediate) :
      Effect i s (setIrOperand s.a s)
  /-- STORE in Direct mode. -/
  | storeMemory (h : i.opcode = Config.opcStore) (hm : i.mode = .direct)
      (ha : inRange (effectiveAddress i.operand) 2 s = true) :
      Effect i s (memWrite2 (effectiveAddress i.operand) s.a s)
  /-- CHAR_IN with no input. -/
  | hold (h : i.opcode = Config.opcCharIn) (hm : i.mode = .direct)
      (ha : inRange (effectiveAddress i.operand) 1 s = true) (hin : s.input = []) :
      Effect i s (holdForInput s)
  /-- CHAR_IN with input. -/
  | readChar (b : Byte) (rest : List Byte) (h : i.opcode = Config.opcCharIn) (hm : i.mode = .direct)
      (ha : inRange (effectiveAddress i.operand) 1 s = true) (hin : s.input = b :: rest) :
      Effect i s (memWrite1 (effectiveAddress i.operand) b { s with input := rest })
  /-- CHAR_OUT. -/
  | writeChar (b : Byte) (h : i.opcode = Config.opcCharOut) : Effect i s (outWrite b s)

/-- An instruction over a source word, LOAD, ADD or SUB, has one of its effects (R75, R80, R81). -/
theorem withSource_word_effect {i : Instr} {s : State} (f : Word → Word)
    (h : i.opcode ∈ [Config.opcLoad, Config.opcAdd, Config.opcSub]) :
    Effect i s
      (withSource i (srcWord i.mode i.operand s) (fun v => setRegister .a (f v) s) s) := by
  have hw : accessWidth i.opcode = some 2 := by
    simp only [List.mem_cons, List.not_mem_nil, or_false] at h
    rcases h with h | h | h <;> rw [h] <;> decide
  have hs : i.opcode ≠ Config.opcStop := by
    intro h'; rw [h'] at h; revert h; decide
  obtain ⟨-, h'⟩ | ⟨-, -, h'⟩ | ⟨hm, ha, h'⟩ | ⟨hm, h'⟩ := srcWord_cases i.mode i.operand s
  · rw [h']; exact .accumulate _ h
  · rw [h']; exact .accumulate _ h
  · rw [h']
    exact .error _ (reportOf_justified_address hw hm ((inRange_eq_false _ _ _).1 ha)) hs
  · rw [h']
    refine .error _ (reportOf_justified_mode _ (by simp [hw]) ?_) hs
    rcases hm with hm | hm <;> rw [hm] <;> rfl

/-- `exec` answers a next state, and that state is one of the eight of `Effect`. -/
theorem exec_effect (i : Instr) (s : State) : ∃ t, exec i s = .next t ∧ Effect i s t := by
  cases i with
  | stop r m w => exact ⟨_, rfl, .stop rfl⟩
  | load r m w => exact ⟨_, rfl, withSource_word_effect (i := .load r m w) id (of_decide_eq_true rfl)⟩
  | add r m w =>
    exact ⟨_, rfl, withSource_word_effect (i := .add r m w) (addWords (readReg .a s)) (of_decide_eq_true rfl)⟩
  | sub r m w =>
    exact ⟨_, rfl, withSource_word_effect (i := .sub r m w) (subWords (readReg .a s)) (of_decide_eq_true rfl)⟩
  | store r m w =>
    refine ⟨_, rfl, ?_⟩
    obtain ⟨hm, h'⟩ | ⟨hm, ha, h'⟩ | ⟨hm, ha, h'⟩ | ⟨hm, h'⟩ := dest_cases m w 2 s
    · rw [h']; exact .storeOperand rfl hm
    · rw [h']; exact .storeMemory (i := .store r m w) rfl hm ha
    · rw [h']
      exact .error _ (reportOf_justified_address (width := 2) rfl hm
        ((inRange_eq_false _ _ _).1 ha)) (of_decide_eq_true rfl)
    · rw [h']
      refine .error _ (reportOf_justified_mode _ (of_decide_eq_true rfl) ?_) (of_decide_eq_true rfl)
      rcases hm with rfl | rfl <;> rfl
  | charIn r m w =>
    refine ⟨_, rfl, ?_⟩
    obtain ⟨hm, h'⟩ | ⟨hm, ha, h'⟩ | ⟨hm, ha, h'⟩ | ⟨hm, h'⟩ := dest_cases m w 1 s
    · rw [h']
      refine .error _ (reportOf_justified_mode _ (of_decide_eq_true rfl) ?_) (of_decide_eq_true rfl)
      subst hm; rfl
    · rw [h']
      cases hin : s.input with
      | nil => simpa [inRead, hin] using .hold (i := .charIn r m w) rfl hm ha hin
      | cons b rest =>
        simpa [inRead, hin] using .readChar (i := .charIn r m w) b rest rfl hm ha hin
    · rw [h']
      exact .error _ (reportOf_justified_address (width := 1) rfl hm
        ((inRange_eq_false _ _ _).1 ha)) (of_decide_eq_true rfl)
    · rw [h']
      refine .error _ (reportOf_justified_mode _ (of_decide_eq_true rfl) ?_) (of_decide_eq_true rfl)
      rcases hm with rfl | rfl <;> rfl
  | charOut r m w =>
    refine ⟨_, rfl, ?_⟩
    obtain ⟨-, h'⟩ | ⟨-, -, h'⟩ | ⟨hm, ha, h'⟩ | ⟨hm, h'⟩ := srcByte_cases m w s
    · rw [h']; exact .writeChar _ rfl
    · rw [h']; exact .writeChar _ rfl
    · rw [h']
      exact .error _ (reportOf_justified_address (width := 1) rfl hm
        ((inRange_eq_false _ _ _).1 ha)) (of_decide_eq_true rfl)
    · rw [h']
      refine .error _ (reportOf_justified_mode _ (of_decide_eq_true rfl) ?_) (of_decide_eq_true rfl)
      rcases hm with rfl | rfl <;> rfl
  | _ => exact ⟨_, rfl, .error _ (reportOf_justified_unknown _ (of_decide_eq_true rfl)) (of_decide_eq_true rfl)⟩

/-- The inversion of `exec`. -/
theorem effect_of_exec {i : Instr} {s t : State} (h : exec i s = .next t) : Effect i s t := by
  obtain ⟨u, hu, he⟩ := exec_effect i s
  rw [hu] at h
  cases h
  exact he

end Sys2Proof.Machine
end

