-- ==== Sys2Proof/Laws/Memory.lean ====
section
/-! SUPPORT. The laws of the data memory: read after write, every other address left alone, the canonical form kept, and equal reads mean equal memories. -/

namespace Sys2Proof.Machine

/-- A write leaves every other address alone, in any list. -/
theorem Memory.read_write_other (mem : List Host.Cell) {addr addr' : Nat} (b : Byte)
    (h : addr' ≠ addr) : Memory.read (Memory.write mem addr b) addr' = Memory.read mem addr' := by
  induction mem with
  | nil =>
    unfold Memory.write
    split <;> simp [Memory.read, h.symm]
  | cons c rest ih =>
    obtain ⟨k, v⟩ := c
    unfold Memory.write
    split_ifs with h1 h2 h3 h4
    · rfl
    · simp [Memory.read, h.symm]
    · subst h3; simp [Memory.read, h.symm]
    · subst h3; simp [Memory.read, h.symm]
    · simp only [Memory.read, ih]

/-- The head, the order and the rest of a canonical list. -/
theorem Memory.wf_cons {k : Nat} {v : Byte} {rest : List Host.Cell} :
    Memory.wf ((k, v) :: rest) = true ↔
      v ≠ Memory.unlisted ∧ (∀ c ∈ rest, k < c.1) ∧ Memory.wf rest = true := by
  simp [Memory.wf, and_assoc]

/-- An address below every listed one reads as unlisted. -/
theorem Memory.read_below (mem : List Host.Cell) {addr : Nat} (h : ∀ c ∈ mem, addr < c.1) :
    Memory.read mem addr = Memory.unlisted := by
  induction mem with
  | nil => rfl
  | cons c rest ih =>
    obtain ⟨k, v⟩ := c
    have hk : addr < k := h (k, v) (by simp)
    have hrest := ih fun c hc => h c (List.mem_cons_of_mem _ hc)
    simp [Memory.read, Nat.ne_of_gt hk, hrest]

/-- A read of the address written gives the byte written. -/
theorem Memory.read_write_same (mem : List Host.Cell) (addr : Nat) (b : Byte)
    (h : Memory.wf mem = true) : Memory.read (Memory.write mem addr b) addr = b := by
  induction mem with
  | nil =>
    unfold Memory.write
    split_ifs with hb
    · exact hb.symm
    · simp [Memory.read]
  | cons c rest ih =>
    obtain ⟨k, v⟩ := c
    obtain ⟨hv, hlt, hwf⟩ := Memory.wf_cons.1 h
    unfold Memory.write
    split_ifs with h1 h2 h3 h4
    · rw [h2]
      apply Memory.read_below
      intro c hc
      rcases List.mem_cons.1 hc with rfl | hc
      · exact h1
      · exact h1.trans (hlt c hc)
    · simp [Memory.read]
    · rw [h4, h3]; exact Memory.read_below _ hlt
    · simp [Memory.read]
    · simp only [Memory.read, if_neg (Ne.symm h3), ih hwf]

/-- The addresses a write lists were listed before or are the one written. -/
theorem Memory.mem_write {mem : List Host.Cell} {addr : Nat} {b : Byte} {c : Host.Cell}
    (h : c ∈ Memory.write mem addr b) : c ∈ mem ∨ c.1 = addr := by
  induction mem with
  | nil =>
    unfold Memory.write at h
    split_ifs at h <;> simp_all
  | cons d rest ih =>
    obtain ⟨k, v⟩ := d
    unfold Memory.write at h
    split_ifs at h with h1 h2 h3 h4
    · exact .inl h
    · rcases List.mem_cons.1 h with rfl | h
      · exact .inr rfl
      · exact .inl h
    · exact .inl (List.mem_cons_of_mem _ h)
    · rcases List.mem_cons.1 h with rfl | h
      · exact .inr rfl
      · exact .inl (List.mem_cons_of_mem _ h)
    · rcases List.mem_cons.1 h with rfl | h
      · exact .inl (by simp)
      · exact (ih h).imp (List.mem_cons_of_mem _) id

/-- A write keeps the canonical form. -/
theorem Memory.write_wf (mem : List Host.Cell) (addr : Nat) (b : Byte)
    (h : Memory.wf mem = true) : Memory.wf (Memory.write mem addr b) = true := by
  induction mem with
  | nil =>
    unfold Memory.write
    split_ifs with hb
    · rfl
    · exact Memory.wf_cons.2 ⟨hb, by simp, rfl⟩
  | cons c rest ih =>
    obtain ⟨k, v⟩ := c
    obtain ⟨hv, hlt, hwf⟩ := Memory.wf_cons.1 h
    unfold Memory.write
    split_ifs with h1 h2 h3 h4
    · exact h
    · refine Memory.wf_cons.2 ⟨h2, fun c hc => ?_, h⟩
      rcases List.mem_cons.1 hc with rfl | hc
      · exact h1
      · exact h1.trans (hlt c hc)
    · exact hwf
    · exact Memory.wf_cons.2 ⟨h4, fun c hc => h3 ▸ hlt c hc, hwf⟩
    · refine Memory.wf_cons.2 ⟨hv, fun c hc => ?_, ih hwf⟩
      rcases Memory.mem_write hc with hc | hc
      · exact hlt c hc
      · omega

/-! ### The accesses of the spec -/

/-- `MemWrite(addr, 1, b)` sets its byte (R34). -/
theorem readByte_memWrite1_same (s : State) (addr : Nat) (b : Byte) (h : Memory.wf s.mem = true) :
    readByte (memWrite1 addr b s) addr = b := Memory.read_write_same _ _ _ h

/-- `MemWrite(addr, 1, b)` changes no other byte (R34). -/
theorem readByte_memWrite1_other (s : State) {addr addr' : Nat} (b : Byte) (h : addr' ≠ addr) :
    readByte (memWrite1 addr b s) addr' = readByte s addr' := Memory.read_write_other _ _ h

/-- `MemWrite(addr, 2, v)` sets the byte at the lower address (R34). -/
theorem readByte_memWrite2_lower (s : State) (addr : Nat) (v : Word) (h : Memory.wf s.mem = true) :
    readByte (memWrite2 addr v s) addr = lowerAddressByte v := by
  unfold readByte memWrite2
  rw [Memory.read_write_other _ _ (by omega), Memory.read_write_same _ _ _ h]

/-- `MemWrite(addr, 2, v)` sets the byte at the higher address (R34). -/
theorem readByte_memWrite2_higher (s : State) (addr : Nat) (v : Word) (h : Memory.wf s.mem = true) :
    readByte (memWrite2 addr v s) (addr + 1) = higherAddressByte v :=
  Memory.read_write_same _ _ _ (Memory.write_wf _ _ _ h)

/-- `MemWrite(addr, 2, v)` changes no other byte (R34). -/
theorem readByte_memWrite2_other (s : State) {addr addr' : Nat} (v : Word) (h : addr' ≠ addr)
    (h1 : addr' ≠ addr + 1) : readByte (memWrite2 addr v s) addr' = readByte s addr' := by
  unfold readByte memWrite2
  rw [Memory.read_write_other _ _ h1, Memory.read_write_other _ _ h]

/-- The two bytes of a word in memory put together again are the word (R35). -/
theorem wordOfMem_bytes (v : Word) : wordOfMem (lowerAddressByte v) (higherAddressByte v) = v := by
  unfold wordOfMem lowerAddressByte higherAddressByte
  split <;> exact append_highByte_lowByte v

/-- A word written is read back at its address (R33, R34). -/
theorem memRead2_memWrite2 (s : State) (addr : Nat) (v : Word) (h : Memory.wf s.mem = true) :
    memRead2 addr (memWrite2 addr v s) = v := by
  unfold memRead2
  rw [readByte_memWrite2_lower s addr v h, readByte_memWrite2_higher s addr v h, wordOfMem_bytes]

end Sys2Proof.Machine
end

