-- ==== Sys2Proof/Laws/Step.lean ====
section
/-! SUPPORT. What a step can do, said once (45_fetch_loop.md R90, R91, R93). -/

namespace Sys2Proof.Machine

/-- The fetch transaction's three answers (R91). -/
theorem fetch_cases (s : State) :
    (s.prog[s.ip]? = none ∧ fetch s = .done .eof) ∨
    (s.prog[s.ip]? = some .sentinel ∧ fetch s = .done .sentinel) ∨
    (∃ spec operand, s.prog[s.ip]? = some (.instr spec operand) ∧
      fetch s = .instr spec operand) := by
  unfold fetch
  cases h : s.prog[s.ip]? with
  | none => simp
  | some e => cases e <;> simp

/-- A record is the record of its instruction: the opcode map loses nothing (R53 to R55). -/
theorem toIR_ofIR (ir : InstrReg) : (Instr.ofIR ir).toIR = ir := by
  obtain ⟨op, rs, md, w⟩ := ir
  have h : ∀ (op : BitVec 5) (r : Reg) (m : Mode) (w : Word),
      ((opcodeMap[op.toNat]'(op.isLt)) r m w).parts = (op, r, m, w) := by
    intro op r m w
    have : op = 0 ∨ op = 1 ∨ op = 2 ∨ op = 3 ∨ op = 4 ∨ op = 5 ∨ op = 6 ∨ op = 7 ∨ op = 8 ∨
        op = 9 ∨ op = 10 ∨ op = 11 ∨ op = 12 ∨ op = 13 ∨ op = 14 ∨ op = 15 ∨ op = 16 ∨ op = 17 ∨
        op = 18 ∨ op = 19 ∨ op = 20 ∨ op = 21 ∨ op = 22 ∨ op = 23 ∨ op = 24 ∨ op = 25 ∨ op = 26 ∨
        op = 27 ∨ op = 28 ∨ op = 29 ∨ op = 30 ∨ op = 31 := by revert op; decide
    rcases this with h | h | h | h | h | h | h | h | h | h | h | h | h | h | h | h | h | h | h | h |
      h | h | h | h | h | h | h | h | h | h | h | h <;> subst h <;> rfl
  have h' := h op (Reg.ofBits rs) (Mode.ofBits md) w
  unfold Instr.ofIR Instr.toIR Instr.opcode Instr.reg Instr.mode Instr.operand
  simp only [h']
  simp

/-- The instruction of a decoded record keeps the record's opcode, operand and mode. -/
theorem opcode_ofIR (ir : InstrReg) : (Instr.ofIR ir).opcode = ir.opcode :=
  congrArg InstrReg.opcode (toIR_ofIR ir)

theorem operand_ofIR (ir : InstrReg) : (Instr.ofIR ir).operand = ir.operand :=
  congrArg InstrReg.operand (toIR_ofIR ir)

theorem mode_ofIR (ir : InstrReg) : (Instr.ofIR ir).mode.bits = ir.mode :=
  congrArg InstrReg.mode (toIR_ofIR ir)

/-- The decoded record of a decoded instruction (R53). -/
theorem toIR_decode (spec : Byte) (operand : Word) :
    (decode spec operand).toIR = decodeFields spec operand := toIR_ofIR _

/-- The input read takes the first byte, or nothing (R20). -/
theorem inRead_cases (s : State) :
    (s.input = [] ∧ inRead s = none) ∨
    (∃ b rest, s.input = b :: rest ∧ inRead s = some (b, { s with input := rest })) := by
  unfold inRead
  cases h : s.input <;> simp

/-- The element placed for the next fetch stands where the fetch looks. -/
theorem placeNext_fetched (e : StreamElem) (s : State) :
    (placeNext e s).prog[(placeNext e s).ip]? = some e := by
  simp only [placeNext]
  rw [List.getElem?_append_right (by simp)]
  simp

/-- A step either halts at the end of the program, or has the effect of the instruction it has just decoded, or has the effect of the CHAR_IN it holds. -/
theorem step_cases {s t : State} (h : step s = .next t) :
    (AtFetch s ∧ s.prog[s.ip]? = none ∧ t = halt .eof s) ∨
    (AtFetch s ∧ s.prog[s.ip]? = some .sentinel ∧ t = halt .sentinel s) ∨
    (AtFetch s ∧ ∃ spec operand, s.prog[s.ip]? = some (.instr spec operand) ∧
      Effect (decode spec operand) (takeInstr spec operand s) t) ∨
    (s.run = .running ∧ s.waiting = true ∧ s.input ≠ [] ∧
      Effect (Instr.ofIR s.ir) (endHold s) t) := by
  unfold step at h
  cases hr : s.run with
  | halted => simp [hr] at h
  | running =>
    cases hw : s.waiting with
    | true =>
      simp only [hr, hw, if_true, resumeHeld] at h
      split at h
      · cases h
      · next hin => exact .inr (.inr (.inr ⟨rfl, rfl, by simpa using hin, effect_of_exec h⟩))
    | false =>
      simp only [hr, hw, Bool.false_eq_true, if_false, fetchDecodeExecute] at h
      obtain ⟨hp, hf⟩ | ⟨hp, hf⟩ | ⟨spec, operand, hp, hf⟩ := fetch_cases s
      · rw [hf] at h; cases h; exact .inl ⟨⟨hr, hw⟩, hp, rfl⟩
      · rw [hf] at h; cases h; exact .inr (.inl ⟨⟨hr, hw⟩, hp, rfl⟩)
      · rw [hf] at h
        exact .inr (.inr (.inl ⟨⟨hr, hw⟩, spec, operand, hp, effect_of_exec h⟩))

/-- The source word depends on memory alone: neither the fetch nor the end of a hold moves it. -/
@[simp] theorem srcWord_takeInstr (m : Mode) (w : Word) (spec : Byte) (operand : Word) (s : State) :
    srcWord m w (takeInstr spec operand s) = srcWord m w s := rfl
@[simp] theorem srcWord_endHold (m : Mode) (w : Word) (s : State) :
    srcWord m w (endHold s) = srcWord m w s := rfl

/-- The instruction executed, where a new one is fetched. -/
theorem executedInstr_of_fetch {s : State} (hs : AtFetch s) :
    executedInstr s = match fetch s with
      | .done _ => none
      | .instr spec operand => some (decode spec operand) := by
  unfold executedInstr
  rw [hs.1, hs.2]
  rfl

/-- The instruction executed, where one is held and a byte is there. -/
theorem executedInstr_of_held {s : State} (hr : s.run = .running) (hw : s.waiting = true)
    (hin : s.input ≠ []) : executedInstr s = some (Instr.ofIR s.ir) := by
  simp [executedInstr, hr, hw, hin]

/-- A step halts at the end of the program, or executes `executedInstr`, at the state the fetch or the end of the hold leaves. -/
theorem step_executes {s t : State} (h : step s = .next t) :
    (executedInstr s = none ∧ ∃ c, t = halt c s) ∨
    ∃ i, executedInstr s = some i ∧
      ((∃ spec operand, exec i (takeInstr spec operand s) = .next t) ∨
        exec i (endHold s) = .next t) := by
  unfold step at h
  cases hr : s.run with
  | halted => simp [hr] at h
  | running =>
    cases hw : s.waiting with
    | true =>
      simp only [hr, hw, if_true, resumeHeld] at h
      split at h
      · cases h
      · next hin => exact .inr ⟨_, executedInstr_of_held hr hw (by simpa using hin), .inr h⟩
    | false =>
      simp only [hr, hw, Bool.false_eq_true, if_false, fetchDecodeExecute] at h
      have he := executedInstr_of_fetch (s := s) ⟨hr, hw⟩
      split at h
      · next c hf => rw [hf] at he; cases h; exact .inl ⟨he, c, rfl⟩
      · next spec operand hf => rw [hf] at he; exact .inr ⟨_, he, .inl ⟨spec, operand, h⟩⟩

end Sys2Proof.Machine
end

