-- ==== Sys2Proof/Laws/Words.lean ====
section
/-! SUPPORT. The flag computation and the arithmetic as facts of naturals (10_state.md R14, 42_add_sub.md R80 to R82). -/

namespace Sys2Proof.Machine

/-- Bit 15 is set exactly for the patterns from 0x8000 up. -/
theorem getLsbD_15 (v : Word) : v.getLsbD 15 = decide (32768 ≤ v.toNat) := by
  rw [show v.getLsbD 15 = v.msb from by rw [BitVec.msb_eq_getLsbD_last], BitVec.msb_eq_decide]

/-- The flags of a value (R14). -/
theorem flagsOf_eq (v : Word) : flagsOf v = ⟨decide (v = 0), decide (32768 ≤ v.toNat)⟩ := by
  unfold flagsOf
  rw [getLsbD_15]
  rfl

/-- The sum modulo 65536 (R80). -/
theorem toNat_addWords (a v : Word) : (addWords a v).toNat = (a.toNat + v.toNat) % 65536 := by
  simp [addWords]

/-- The difference modulo 65536 (R81). -/
theorem toNat_subWords (a v : Word) : (subWords a v).toNat = (a.toNat + 65536 - v.toNat) % 65536 := by
  simp [subWords]

end Sys2Proof.Machine
end

