-- ==== Sys2Proof/Tests/Slice0.lean ====
section
/-! SUPPORT. The model's own tests, expected values from spec/95_test_vectors.md (its vector ids in the docstrings) or written out from the encoding rules; the WellFormed smoke; and one witness per statement with hypotheses: a concrete state and operands that meet all of them. -/

namespace Sys2Proof.Tests

open Sys2Proof Sys2Proof.Machine

/-! ### Helpers -/

/-- A reset machine of 32 bytes with this program and input (the start state of 95_test_vectors.md). -/
def start (prog : List StreamElem) (input : List Byte) : State := State.resetWith 32 prog input

/-- `start` with A, its flags and memory set. -/
def withA (a : Word) (flags : Flags) (mem : List Host.Cell) : State :=
  { start [] [] with a := a, flagsA := flags, mem := mem }

/-- The state an instruction leaves. -/
def after (i : Instr) (s : State) : State :=
  match exec i s with
  | .next t => t
  | _ => s

/-- The state a step leaves, none where there is no step. -/
def stepped (s : State) : Option State :=
  match step s with
  | .next t => some t
  | _ => none

/-! ### WellFormed: each check refuses an ill-formed term -/

theorem smoke_instr_wf : Instr.wf (.stop .a .immediate 0x1234) = false ∧ Instr.wf (.stop .x .immediate 0) = true := by decide
theorem smoke_elem_wf : StreamElem.wf (.instr 0x00 0x0001) = false ∧ StreamElem.wf (.instr 0x01 0) = true := by decide
theorem smoke_program_wf : programWf [.sentinel, .instr 0x08 0] = false ∧ programWf [.instr 0x00 0] = false ∧ programWf [.instr 0x08 0, .sentinel] = true := by decide
theorem smoke_memSize_wf : memSizeWf 0 = false ∧ memSizeWf 65537 = false ∧ memSizeWf 1 = true ∧ memSizeWf 65536 = true := by decide
theorem smoke_opcodes_wf : opcodesWf [0, 1, 2, 3, 3, 27, 28] = false ∧ opcodesWf [0, 1, 2, 3, 4, 28, 27] = false ∧ opcodesWf Config.recognizedOpcodes = true := by decide
theorem smoke_memory_wf : Memory.wf [(3, 1), (3, 2)] = false ∧ Memory.wf [(3, 0)] = false ∧ Memory.wf [(3, 1), (4, 2)] = true := by decide

/-! ### Decoding: every constructor's word, written out bit by bit from R50, R51 and R54 (opcode, register select, mode) -/

theorem test_decode_recognized :
    decode 0b00000111 0xFFFF = .stop .x .mode3 0xFFFF ∧ decode 0b00001101 0x0010 = .load .x .direct 0x0010 ∧
    decode 0b00010001 0x001E = .store .a .direct 0x001E ∧ decode 0b00011100 0x0001 = .add .x .immediate 0x0001 ∧
    decode 0b00100111 0xABCD = .sub .x .mode3 0xABCD ∧ decode 0b11011000 0x0000 = .charIn .a .immediate 0x0000 ∧
    decode 0b11100001 0x0010 = .charOut .a .direct 0x0010 := by decide
theorem test_decode_unknown_low :
    decode 0b00101000 0 = .unknown5 .a .immediate 0 ∧ decode 0b00110001 1 = .unknown6 .a .direct 1 ∧
    decode 0b00111010 2 = .unknown7 .a .mode2 2 ∧ decode 0b01000011 3 = .unknown8 .a .mode3 3 ∧
    decode 0b01001100 4 = .unknown9 .x .immediate 4 ∧ decode 0b01010101 5 = .unknown10 .x .direct 5 ∧
    decode 0b01011110 6 = .unknown11 .x .mode2 6 ∧ decode 0b01100111 7 = .unknown12 .x .mode3 7 ∧
    decode 0b01101000 8 = .unknown13 .a .immediate 8 ∧ decode 0b01110001 9 = .unknown14 .a .direct 9 ∧
    decode 0b01111010 10 = .unknown15 .a .mode2 10 ∧ decode 0b10000011 11 = .unknown16 .a .mode3 11 := by decide
theorem test_decode_unknown_high :
    decode 0b10001100 0 = .unknown17 .x .immediate 0 ∧ decode 0b10010101 1 = .unknown18 .x .direct 1 ∧
    decode 0b10011110 2 = .unknown19 .x .mode2 2 ∧ decode 0b10100111 3 = .unknown20 .x .mode3 3 ∧
    decode 0b10101000 4 = .unknown21 .a .immediate 4 ∧ decode 0b10110001 5 = .unknown22 .a .direct 5 ∧
    decode 0b10111010 6 = .unknown23 .a .mode2 6 ∧ decode 0b11000011 7 = .unknown24 .a .mode3 7 ∧
    decode 0b11001100 8 = .unknown25 .x .immediate 8 ∧ decode 0b11010111 0x1234 = .unknown26 .x .mode3 0x1234 ∧
    decode 0b11101000 0 = .unknown29 .a .immediate 0 ∧ decode 0b11110010 1 = .unknown30 .a .mode2 1 ∧
    decode 0b11111111 0 = .unknown31 .x .mode3 0 := by decide
/-- V-D1 in the host's numbering, and the all-zero word, which is STOP when presented to the decoder (V-D11). -/
theorem test_decodeTableWord : decodeTableWord 24 0xE00048 = some (.charOut .a .immediate 0x0048) ∧
    decodeTableWord 24 0 = some (.stop .a .immediate 0) ∧ decodeTableWord 32 0 = none := by decide
theorem test_decodeBytes_truncated : decodeBytes [0xE0, 0x00] = .error .truncated := rfl
/-- V-F4, V-F5: a truncated last instruction, bytes after the sentinel. -/
theorem test_loadProgram : loadProgram [0xE0, 0x00, 0x41, 0xE0, 0x00] = [.instr 0xE0 0x0041] ∧
    loadProgram [0xE0, 0x00, 0x41, 0x00, 0xE0, 0x00, 0x42] = [.instr 0xE0 0x0041, .sentinel] ∧
    loadProgram [0xE0, 0x00, 0x00, 0x00] = [.instr 0xE0 0x0000, .sentinel] := by decide
/-- The encoder against the source's example (S6). -/
theorem test_encode : encode (.charOut .a .immediate 0x0048) = [0xE0, 0x00, 0x48] ∧
    encode (.load .x .direct 0x0010) = [0x0D, 0x00, 0x10] := by decide

/-! ### Instructions -/

/-- V-SU2. -/
theorem test_stop : (after (.stop .x .mode3 0xFFFF) (start [] [])).haltCause = .stop ∧
    (after (.stop .x .mode3 0xFFFF) (start [] [])).errs = [] := by decide
/-- V-LS8, V-LS9: the highest legal address, an odd address. -/
theorem test_load_direct : (after (.load .a .direct 0x001E) (withA 0 ⟨false, false⟩ [(0x1E, 0xAB), (0x1F, 0xCD)])).a = 0xABCD ∧
    (after (.load .a .direct 0x0003) (withA 0 ⟨false, false⟩ [(3, 0x12), (4, 0x34)])).a = 0x1234 := by decide
/-- V-LS15: no wrap at 0xFFFF with N = 65536. -/
theorem test_load_no_wrap : (after (.load .a .direct 0xFFFF) (State.resetWith 65536 [] [])).haltCause = .outOfRange := by decide
/-- V-LS5, V-LS6. -/
theorem test_store_direct : (after (.store .a .direct 0x001E) (withA 0xABCD ⟨false, true⟩ [])).mem = [(0x1E, 0xAB), (0x1F, 0xCD)] ∧
    (after (.store .a .direct 0x001F) (withA 0xABCD ⟨false, true⟩ [])).mem = [] := by decide
/-- V-LS11: the Immediate quirk. -/
theorem test_store_immediate : after (.store .a .immediate 0x0008) (withA 0x1234 ⟨false, false⟩ [(8, 0x55), (9, 0x66)]) =
    { withA 0x1234 ⟨false, false⟩ [(8, 0x55), (9, 0x66)] with ir := ⟨0, 0, 0, 0x1234⟩ } := by decide
/-- V-AS1, V-AS5. -/
theorem test_add : (after (.add .a .immediate 1) (withA 0x7FFF ⟨false, false⟩ [])).a = 0x8000 ∧
    (after (.add .a .immediate 1) (withA 0x7FFF ⟨false, false⟩ [])).flagsA = ⟨false, true⟩ ∧
    (after (.add .a .immediate 0) (start [] [])).flagsA = ⟨true, false⟩ := by decide
/-- V-AS7. -/
theorem test_add_direct : (after (.add .a .direct 0x0010) (withA 0x1234 ⟨false, false⟩ [(0x11, 0x0C)])).a = 0x1240 := by decide
/-- V-AS17, V-AS11. -/
theorem test_sub : (after (.sub .a .immediate 0xFFFF) (withA 0x7FFF ⟨false, false⟩ [])).a = 0x8000 ∧
    (after (.sub .a .immediate 0x8000) (start [] [])).a = 0x8000 := by decide
/-- V-AS14. -/
theorem test_sub_direct : (after (.sub .a .direct 0x0010) (withA 0x000B ⟨false, false⟩ [(0x11, 0x0C)])).a = 0xFFFF ∧
    (after (.sub .a .direct 0x0010) (withA 0x000B ⟨false, false⟩ [(0x11, 0x0C)])).flagsA = ⟨false, true⟩ := by decide
/-- V-IO16, V-IO10 (0x00 keeps the canonical form). -/
theorem test_charIn : (after (.charIn .a .direct 4) { start [] [0x5A] with mem := [(4, 0x41), (5, 0x42)] }).mem = [(4, 0x5A), (5, 0x42)] ∧
    (after (.charIn .a .direct 4) { start [] [0x00] with mem := [(4, 0x41), (5, 0x42)] }).mem = [(5, 0x42)] := by decide
/-- V-IO11, V-IO13: a rejected CHAR_IN consumes nothing; the mode is checked before the address. -/
theorem test_charIn_rejected : (after (.charIn .a .direct 0x20) (start [] [0x7A])).input = [0x7A] ∧
    (after (.charIn .a .immediate 0xFFFF) (start [] [0x71])).errs = [⟨.invalidAddressingMode, 0xD8, 0xFFFF⟩] := by decide
/-- V-IO2, V-IO4. -/
theorem test_charOut : (after (.charOut .a .immediate 0x0141) (start [] [])).output = [0x41] ∧
    (after (.charOut .a .direct 7) (withA 0 ⟨false, false⟩ [(7, 0x42)])).output = [0x42] := by decide
/-- V-SU4, V-E1: one report, the opcode checked before mode and address. -/
theorem test_unknown : (after (.unknown31 .x .mode3 0xFFFF) (start [] [])).errs = [⟨.unknownOpcode, 0xFF, 0xFFFF⟩] ∧
    (after (.unknown5 .a .mode3 0xFFFF) (start [] [])).errs = [⟨.unknownOpcode, 0x2B, 0xFFFF⟩] := by decide
/-- V-R6: the write path of X, which no instruction calls. -/
theorem test_setRegister_x : (setRegister .x 0x8000 (start [] [])).flagsX = ⟨false, true⟩ ∧
    (setRegister .x 0x8000 (start [] [])).flagsA = ⟨false, false⟩ := by decide

/-! ### Steps -/

/-- V-F1, V-F2. -/
theorem test_step_end : stepped (start [.sentinel] []) = some { start [.sentinel] [] with run := .halted, haltCause := .sentinel } ∧
    stepped (start [] []) = some { start [] [] with run := .halted, haltCause := .eof } := by decide
/-- V-IO15: the waiting state, stuck until a byte arrives, then completed. -/
theorem test_step_charIn_waits :
    stepped (start [.instr 0xD9 0] []) = some { start [.instr 0xD9 0] [] with ip := 1, ir := ⟨27, 0, 1, 0⟩, waiting := true } ∧
    stepped { start [.instr 0xD9 0] [] with ip := 1, ir := ⟨27, 0, 1, 0⟩, waiting := true } = none ∧
    stepped (supplyInput 0x61 { start [.instr 0xD9 0] [] with ip := 1, ir := ⟨27, 0, 1, 0⟩, waiting := true }) =
      some { start [.instr 0xD9 0] [] with ip := 1, ir := ⟨27, 0, 1, 0⟩, mem := [(0, 0x61)] } := by decide
/-- V-F9: the fatal error. -/
theorem test_step_fatal : stepped (start [.instr 0x09 0x0020, .instr 0xE0 0x0041, .sentinel] []) =
    some { start [.instr 0x09 0x0020, .instr 0xE0 0x0041, .sentinel] [] with
      ip := 1, ir := ⟨1, 0, 1, 0x0020⟩, errs := [⟨.outOfRangeAddress, 0x09, 0x0020⟩], run := .halted, haltCause := .outOfRange } := by decide
/-- The host's interface: the all-zero word runs as STOP, and an instruction placed in a halted machine runs. -/
theorem test_withFetchWord : (stepped (State.reset.withFetchWord 24 0)).map (·.haltCause) = some .stop ∧
    (stepped (State.withFetchWord { start [.sentinel] [] with run := .halted } 24 0xE00041)).map (·.output) = some [0x41] := by decide

/-! ### Witnesses: each statement's hypotheses are met -/

/-- A memory in canonical form at the top of a 32-byte machine. -/
def full : State := withA 0xABCD ⟨false, true⟩ [(0x1E, 0x12), (0x1F, 0x34)]

theorem witness_LoaderDeliversEncodedProgram :
    ∀ i ∈ [Instr.load .a .immediate 0x1234, .unknown31 .x .mode3 0, .stop .x .immediate 0], i.wf = true := by decide
theorem witness_LoaderReadsOneElement : (0xE0 : Byte) ≠ 0x00 := by decide
theorem witness_SetRegisterWritesValueAndFlags : Reg.x ≠ Reg.a := by decide
theorem witness_MemoryReadsBackWrites : Memory.wf full.mem = true ∧ (0x1E : Nat) ≠ 0x1F ∧ (0 : Nat) ≠ 0x1F + 1 := by decide
theorem witness_MemoryWritesKeepCanonicalForm :
    Memory.wf full.mem = true ∧ (∀ c ∈ full.mem, c.1 < 32) ∧ 31 < 32 := by decide
theorem witness_CanonicalMemoryIsUnique : Memory.wf full.mem = true ∧ Memory.wf (memWrite1 0 0 full).mem = true ∧
    (∀ addr, Memory.read full.mem addr = Memory.read (memWrite1 0 0 full).mem addr) :=
  ⟨by decide, by decide, fun _ => rfl⟩
/-- The last address in range and the first out of range, for a word and a byte. -/
theorem witness_SourceWordForms : (0x001E : Word).toNat + 2 ≤ full.memSize ∧ full.memSize < (0x001F : Word).toNat + 2 := by decide
theorem witness_SourceByteForms : (0x001F : Word).toNat + 1 ≤ full.memSize ∧ full.memSize < (0x0020 : Word).toNat + 1 := by decide
theorem witness_DestinationForms : ((0x001E : Word).toNat + 2 ≤ full.memSize ∧ full.memSize < (0x001F : Word).toNat + 2) ∧
    ((0x001F : Word).toNat + 1 ≤ full.memSize ∧ full.memSize < (0x0020 : Word).toNat + 1) := by decide
theorem witness_UnknownOpcodeIsReportedAndSkipped :
    decode 0xFF 0xFFFF = Instr.unknown31 .x .mode3 0xFFFF ∧ (start [.instr 0xFF 0xFFFF] []).run = .running ∧
    (start [.instr 0xFF 0xFFFF] []).waiting = false ∧
    (start [.instr 0xFF 0xFFFF] []).prog[(start [.instr 0xFF 0xFFFF] []).ip]? = some (.instr 0xFF 0xFFFF) := by decide
theorem witness_LoadCompletes : (0x001E : Word).toNat + 2 ≤ full.memSize ∧
    (0x1234 : Word) = readByte full (0x001E : Word).toNat ++ readByte full ((0x001E : Word).toNat + 1) := by decide
theorem witness_StoreCompletes : (0x001E : Word).toNat + 2 ≤ full.memSize ∧ Memory.wf full.mem = true ∧
    (0 : Nat) ≠ (0x001E : Word).toNat ∧ (0 : Nat) ≠ (0x001E : Word).toNat + 1 := by decide
theorem witness_AddCompletes : (0xABCC : Word).toNat = (full.a.toNat + (0xFFFF : Word).toNat) % 65536 ∧
    (0x001E : Word).toNat + 2 ≤ full.memSize ∧
    (0x1234 : Word) = readByte full (0x001E : Word).toNat ++ readByte full ((0x001E : Word).toNat + 1) ∧
    (0xBE01 : Word).toNat = (full.a.toNat + (0x1234 : Word).toNat) % 65536 := by decide
theorem witness_SubCompletes : (0xABCE : Word).toNat = (full.a.toNat + 65536 - (0xFFFF : Word).toNat) % 65536 ∧
    (0x001E : Word).toNat + 2 ≤ full.memSize ∧
    (0x1234 : Word) = readByte full (0x001E : Word).toNat ++ readByte full ((0x001E : Word).toNat + 1) ∧
    (0x9999 : Word).toNat = (full.a.toNat + 65536 - (0x1234 : Word).toNat) % 65536 := by decide
theorem witness_CharInCompletes : (0x001F : Word).toNat + 1 ≤ (start [] [0x61]).memSize ∧
    (start [] [0x61]).input = 0x61 :: [] ∧ Memory.wf (start [] [0x61]).mem = true ∧ (0 : Nat) ≠ (0x001F : Word).toNat := by decide
theorem witness_CharInHoldsWhileInputEmpty : (0x001F : Word).toNat + 1 ≤ full.memSize ∧ full.input = [] ∧ full.run = .running := by decide
theorem witness_CharOutCompletes : (0x001F : Word).toNat + 1 ≤ full.memSize := by decide
theorem witness_InvalidModeIsReportedAndSkipped : (Mode.mode2 = .mode2 ∨ Mode.mode2 = .mode3) ∧ Mode.immediate ≠ .direct := by decide
theorem witness_OutOfRangeHalts : full.memSize < (0x001F : Word).toNat + 2 ∧ full.memSize < (0x0020 : Word).toNat + 1 := by decide
theorem witness_ErrorIsTheWholeEffect :
    exec (.load .a .mode2 0) full = .next (after (.load .a .mode2 0) full) ∧ (after (.load .a .mode2 0) full).errs ≠ full.errs :=
  ⟨rfl, by decide⟩
theorem witness_RegisterFrame : exec (.store .a .direct 0x001E) full = .next (after (.store .a .direct 0x001E) full) ∧
    (Instr.store .a .direct 0x001E).opcode ∉ [Config.opcLoad, Config.opcAdd, Config.opcSub] := ⟨rfl, by decide⟩
theorem witness_MemoryFrameOfFormsThatStoreNothing :
    exec (.load .a .direct 0x001E) full = .next (after (.load .a .direct 0x001E) full) ∧
    ((Instr.load .a .direct 0x001E).opcode ∉ [Config.opcStore, Config.opcCharIn] ∨ (Instr.load .a .direct 0x001E).mode ≠ .direct) ∧
    exec (.store .a .immediate 0) full = .next (after (.store .a .immediate 0) full) ∧
    ((Instr.store .a .immediate 0).opcode ∉ [Config.opcStore, Config.opcCharIn] ∨ (Instr.store .a .immediate 0).mode ≠ .direct) :=
  ⟨rfl, by decide, rfl, by decide⟩
theorem witness_MemoryFrameOfStores :
    exec (.store .a .direct 0x001E) full = .next (after (.store .a .direct 0x001E) full) ∧
    dest .direct 0x001E 2 full = .memAt 0x1E ∧ ((0x1D : Nat) < 0x1E ∨ 0x1E + 2 ≤ 0x1D) ∧
    exec (.charIn .a .direct 0x001F) (start [] [0x61]) = .next (after (.charIn .a .direct 0x001F) (start [] [0x61])) ∧
    dest .direct 0x001F 1 (start [] [0x61]) = .memAt 0x1F ∧ ((0x1E : Nat) < 0x1F ∨ 0x1F + 1 ≤ 0x1E) :=
  ⟨rfl, rfl, by decide, rfl, rfl, by decide⟩
theorem witness_MemoryFrameOfStores_none : exec (.store .a .direct 0x001F) full = .next (after (.store .a .direct 0x001F) full) ∧
    (∀ base, dest .direct 0x001F 2 full ≠ .memAt base) ∧
    exec (.charIn .a .immediate 0) full = .next (after (.charIn .a .immediate 0) full) ∧
    (∀ base, dest .immediate 0 1 full ≠ .memAt base) :=
  ⟨rfl, (fun _ h => nomatch h), rfl, (fun _ h => nomatch h)⟩
theorem witness_StreamAndInstructionRegisterFrame :
    exec (.add .a .immediate 1) full = .next (after (.add .a .immediate 1) full) ∧
    (Instr.add .a .immediate 1).opcode ≠ Config.opcCharIn ∧ (Instr.add .a .immediate 1).opcode ≠ Config.opcCharOut ∧
    (Instr.add .a .immediate 1).opcode ≠ Config.opcStore := ⟨rfl, by decide, by decide, by decide⟩
theorem witness_ControlFrame : exec (.load .a .mode3 0) full = .next (after (.load .a .mode3 0) full) ∧
    (Instr.load .a .mode3 0).opcode ≠ Config.opcStop ∧
    (¬ ∃ rep, (after (.load .a .mode3 0) full).errs = full.errs ++ [rep] ∧ rep.kind = .outOfRangeAddress) ∧
    (Instr.stop .a .direct 0).opcode = Config.opcStop := by
  refine ⟨rfl, by decide, ?_, by decide⟩
  rintro ⟨rep, h, hk⟩
  have h' : [(⟨.invalidAddressingMode, 0x0B, 0⟩ : Report)] = [rep] := h
  cases h'
  cases hk
/-- The log as before (STORE in Immediate mode), and one justified report appended (LOAD out of range). -/
theorem witness_ControlFrame_log : (after (.store .a .immediate 0) full).errs = full.errs ∧
    (after (.load .a .direct 0x001F) full).errs = full.errs ++ [⟨.outOfRangeAddress, 0x09, 0x001F⟩] ∧
    (after (.load .a .direct 0x001F) full).run = .halted := by decide
theorem witness_RegisterSelectIsIgnored :
    exec (decode 0x08 0x1234) full = .next (after (decode 0x08 0x1234) full) ∧
    exec (decode (0x08 ^^^ 0x04) 0x1234) full = .next (after (decode (0x08 ^^^ 0x04) 0x1234) full) ∧
    decode (0x08 ^^^ 0x04) 0x1234 = .load .x .immediate 0x1234 := ⟨rfl, rfl, by decide⟩
theorem witness_FlagsAndIndexRegisterAreNeverRead :
    exec (.add .a .immediate 1) full = .next (after (.add .a .immediate 1) full) ∧
    exec (.add .a .immediate 1) { full with flagsA := ⟨true, true⟩, flagsX := ⟨true, false⟩, x := 7 } =
      .next (after (.add .a .immediate 1) { full with flagsA := ⟨true, true⟩, flagsX := ⟨true, false⟩, x := 7 }) := ⟨rfl, rfl⟩
theorem witness_LoadStoreRoundTrip : (0x001E : Word).toNat + 2 ≤ full.memSize ∧ Memory.wf full.mem = true := by decide
theorem witness_AddAndSubAreInverse : (0x0000 : Word).toNat = (65536 - (0x0000 : Word).toNat) % 65536 ∧
    (0xFFFF : Word).toNat = (65536 - (0x0001 : Word).toNat) % 65536 := by decide
theorem witness_ByteOrderIsVisible : (0x001F : Word).toNat = (0x001E : Word).toNat + 1 ∧ (0x001E : Word).toNat + 2 ≤ (start [] [0x61]).memSize ∧
    Memory.wf (start [] [0x61]).mem = true ∧ (start [] [0x61]).input = 0x61 :: [] ∧
    readByte (start [] [0x61]) (0x001E : Word).toNat = 0x00 := by decide
theorem witness_FetchTransaction : (start [] []).ip = (start [] []).prog.length ∧
    (start [.sentinel] []).prog[(start [.sentinel] []).ip]? = some .sentinel ∧
    (start [.instr 0x08 1] []).prog[(start [.instr 0x08 1] []).ip]? = some (.instr 0x08 1) := by decide
theorem witness_StepRunsDecodedInstruction : (start [.instr 0x08 1] []).run = .running ∧ (start [.instr 0x08 1] []).waiting = false ∧
    (start [.instr 0x08 1] []).prog[(start [.instr 0x08 1] []).ip]? = some (.instr 0x08 1) := by decide
theorem witness_StepHaltsAtEndOfProgram : AtFetch (start [.sentinel] []) ∧
    (start [.sentinel] []).prog[(start [.sentinel] []).ip]? = some .sentinel ∧
    AtFetch (start [] []) ∧ (start [] []).ip = (start [] []).prog.length := by decide
theorem witness_HaltedIsAbsorbingAndEnteredInFourWays : (start [] []).run = .running ∧
    step (start [] []) = .next { start [] [] with run := .halted, haltCause := .eof } ∧
    step (start [.sentinel] []) = .next { start [.sentinel] [] with run := .halted, haltCause := .sentinel } ∧
    (stepped (start [.instr 0x01 0] [])).map (·.run) = some .halted ∧
    (stepped (start [.instr 0x09 0x1F] [])).map (·.run) = some .halted := ⟨rfl, rfl, rfl, by decide, by decide⟩

/-- A machine that holds a CHAR_IN at its last address. -/
def held : State := { start [.instr 0xD9 0x001F] [] with ip := 1, ir := ⟨27, 0, 1, 0x001F⟩, waiting := true }

theorem held_inv : MachineInv held where
  size_legal := by decide
  mem_canonical := by decide
  mem_inside := by decide
  cause_agrees := by decide
  ip_bounded := by decide
  program_wf := by decide
  flags_a := by decide
  x_reset := by decide
  ir_tracks := ⟨0xD9, 0x001F, rfl, by decide, .inl rfl⟩
  held := fun _ => ⟨rfl, rfl, rfl, by decide⟩
  reports_justified := by intro rep h; cases h
  fatal_report := ⟨fun ⟨_, h, _⟩ => (nomatch h), fun h => (nomatch h)⟩

theorem witness_HeldCharInCompletesWhenInputArrives : MachineInv held ∧ held.waiting = true ∧ held.input = [] ∧
    (0 : Nat) ≠ held.ir.operand.toNat := ⟨held_inv, rfl, rfl, by decide⟩

/-- A reset machine has the invariant. -/
theorem start_inv : MachineInv (start [.instr 0x11 0x001E, .sentinel] []) where
  size_legal := by decide
  mem_canonical := by decide
  mem_inside := by decide
  cause_agrees := by decide
  ip_bounded := by decide
  program_wf := by decide
  flags_a := by decide
  x_reset := by decide
  ir_tracks := rfl
  held := fun h => (nomatch h)
  reports_justified := by intro rep h; cases h
  fatal_report := ⟨fun ⟨_, h, _⟩ => (nomatch h), fun h => (nomatch h)⟩

theorem witness_StepKeepsInvariant : MachineInv (start [.instr 0x11 0x001E, .sentinel] []) ∧
    ∃ t, step (start [.instr 0x11 0x001E, .sentinel] []) = .next t := ⟨start_inv, _, rfl⟩
theorem witness_ResetMeetsInvariant : memSizeWf 1 = true ∧ memSizeWf 65536 = true := by decide
theorem witness_EnvironmentKeepsInvariant : MachineInv held := held_inv
/-- Clause 1: flags that agree, and a step. -/
theorem witness_FlagsFollowTheAccumulator :
    full.flagsA = flagsOf full.a ∧ ∃ t, step { full with prog := [.instr 0x08 0] } = .next t := ⟨by decide, _, rfl⟩
/-- Clause 2, V-AS5 with LOAD and SUB beside ADD: after reset each writes the 0 that A holds already, and Z_A becomes 1. -/
theorem witness_FlagsFollowTheAccumulator_written :
    (executedInstr (start [.instr 0x08 0] []) = some (.load .a .immediate 0) ∧
      srcWord .immediate 0 (start [.instr 0x08 0] []) = .value 0 ∧
      (stepped (start [.instr 0x08 0] [])).map (fun t => (t.a, t.flagsA)) = some (0, ⟨true, false⟩)) ∧
    (executedInstr (start [.instr 0x19 0x001E] []) = some (.add .a .direct 0x001E) ∧
      srcWord .direct 0x001E (start [.instr 0x19 0x001E] []) = .value 0 ∧
      (stepped (start [.instr 0x19 0x001E] [])).map (fun t => (t.a, t.flagsA)) = some (0, ⟨true, false⟩)) ∧
    (executedInstr (start [.instr 0x20 0] []) = some (.sub .a .immediate 0) ∧
      srcWord .immediate 0 (start [.instr 0x20 0] []) = .value 0 ∧
      (stepped (start [.instr 0x20 0] [])).map (fun t => (t.a, t.flagsA)) = some (0, ⟨true, false⟩)) := by decide
/-- Clause 3: no LOAD, ADD or SUB is executed, by a STORE after reset (N25), by the sentinel, or by a held CHAR_IN whose byte has come. -/
theorem witness_FlagsFollowTheAccumulator_other :
    (executedInstr (start [.instr 0x11 0x001E] []) = some (.store .a .direct 0x001E) ∧
      (Instr.store .a .direct 0x001E).opcode ∉ [Config.opcLoad, Config.opcAdd, Config.opcSub] ∧
      (stepped (start [.instr 0x11 0x001E] [])).map (·.flagsA) = some ⟨false, false⟩) ∧
    (executedInstr (start [.sentinel] []) = none ∧ (stepped (start [.sentinel] [])).isSome = true) ∧
    (executedInstr (supplyInput 0x61 held) = some (.charIn .a .direct 0x001F) ∧
      (Instr.charIn .a .direct 0x001F).opcode ∉ [Config.opcLoad, Config.opcAdd, Config.opcSub] ∧
      (stepped (supplyInput 0x61 held)).isSome = true) := by decide
/-- Clause 3: a LOAD that is rejected for its mode, and an ADD for its address, the first out of range. -/
theorem witness_FlagsFollowTheAccumulator_rejected :
    executedInstr (start [.instr 0x0A 0] []) = some (.load .a .mode2 0) ∧
    (∀ v, srcWord .mode2 0 (start [.instr 0x0A 0] []) ≠ .value v) ∧
    executedInstr (start [.instr 0x19 0x001F] []) = some (.add .a .direct 0x001F) ∧
    (∀ v, srcWord .direct 0x001F (start [.instr 0x19 0x001F] []) ≠ .value v) ∧
    (stepped (start [.instr 0x0A 0] [])).isSome = true ∧ (stepped (start [.instr 0x19 0x001F] [])).isSome = true :=
  ⟨by decide, (fun _ h => nomatch h), by decide, (fun _ h => nomatch h), by decide, by decide⟩
theorem witness_StepLeavesProgramAndIndexRegister :
    ∃ t, step { full with prog := [.instr 0x11 0x001E] } = .next t := ⟨_, rfl⟩
theorem witness_StreamsAreTakenAndAppendedInOrder :
    ∃ t, step (start [.instr 0xD9 0x001F] [0x61]) = .next t := ⟨_, rfl⟩
theorem witness_LoadedProgramRunsInOrder :
    (∀ i ∈ [Instr.charOut .a .immediate 0x48, .charOut .a .immediate 0x65], i.wf = true) ∧
    AtFetch (runInstrs [Instr.charOut .a .immediate 0x48, .charOut .a .immediate 0x65]
      (State.resetWith 32 (loadProgram ([Instr.charOut .a .immediate 0x48, .charOut .a .immediate 0x65].flatMap encode ++ 0x00 :: [0x5A])) [])) :=
  ⟨by decide, by decide⟩

end Sys2Proof.Tests
end

section
/-! Facts of the shared operations: memory writes and canonical memories, the loader's stream, the step of a machine that holds an instruction. -/

namespace Sys2Proof.Machine

/-! ### Memory -/

/-- A write in range lists no address outside 0 to n - 1 (R17, R38). -/
theorem Memory.write_inside {mem : List Host.Cell} {n addr : Nat} (b : Byte)
    (hmem : ∀ c ∈ mem, c.1 < n) (haddr : addr < n) : ∀ c ∈ Memory.write mem addr b, c.1 < n := by
  intro c hc
  rcases Memory.mem_write hc with hc | hc
  · exact hmem c hc
  · exact hc ▸ haddr

@[simp] theorem Memory.read_nil (addr : Nat) : Memory.read [] addr = Memory.unlisted := rfl

theorem Memory.read_cons_same (k : Nat) (v : Byte) (rest : List Host.Cell) :
    Memory.read ((k, v) :: rest) k = v := if_pos rfl

theorem Memory.read_cons_other {k addr : Nat} (v : Byte) (rest : List Host.Cell) (h : addr ≠ k) :
    Memory.read ((k, v) :: rest) addr = Memory.read rest addr := if_neg h.symm

/-- Of two canonical memories that read alike, neither starts at a lower address than the other: that address would read as unlisted in the other. -/
theorem Memory.head_not_below {k1 k2 : Nat} {v1 v2 : Byte} {r1 r2 : List Host.Cell}
    (h1 : Memory.wf ((k1, v1) :: r1) = true) (h2 : Memory.wf ((k2, v2) :: r2) = true)
    (hread : Memory.read ((k1, v1) :: r1) k1 = Memory.read ((k2, v2) :: r2) k1) : ¬ k1 < k2 := by
  intro hlt
  obtain ⟨hv1, -, -⟩ := Memory.wf_cons.1 h1
  obtain ⟨-, hlt2, -⟩ := Memory.wf_cons.1 h2
  have hbelow : Memory.read ((k2, v2) :: r2) k1 = Memory.unlisted :=
    Memory.read_below _ (List.forall_mem_cons.2 ⟨hlt, fun c hc => hlt.trans (hlt2 c hc)⟩)
  exact hv1 (by rw [← Memory.read_cons_same k1 v1 r1, hread, hbelow])

/-- Canonical memories that read alike are the same list. -/
theorem Memory.eq_of_read_eq {m1 m2 : List Host.Cell} (h1 : Memory.wf m1 = true)
    (h2 : Memory.wf m2 = true) (hread : ∀ addr, Memory.read m1 addr = Memory.read m2 addr) :
    m1 = m2 := by
  induction m1 generalizing m2 with
  | nil =>
    cases m2 with
    | nil => rfl
    | cons c rest =>
      obtain ⟨hv, -, -⟩ := Memory.wf_cons.1 h2
      exact absurd ((Memory.read_cons_same _ _ _).symm.trans (hread c.1).symm) hv
  | cons c1 r1 ih =>
    obtain ⟨k1, v1⟩ := c1
    obtain ⟨hv1, hlt1, hwf1⟩ := Memory.wf_cons.1 h1
    cases m2 with
    | nil => exact absurd ((Memory.read_cons_same _ _ _).symm.trans (hread k1)) hv1
    | cons c2 r2 =>
      obtain ⟨k2, v2⟩ := c2
      obtain ⟨-, hlt2, hwf2⟩ := Memory.wf_cons.1 h2
      obtain rfl : k1 = k2 := Nat.le_antisymm
        (Nat.not_lt.1 (Memory.head_not_below h2 h1 (hread k2).symm))
        (Nat.not_lt.1 (Memory.head_not_below h1 h2 (hread k1)))
      obtain rfl : v1 = v2 := by simpa [Memory.read_cons_same] using hread k1
      have hrest : ∀ addr, Memory.read r1 addr = Memory.read r2 addr := by
        intro addr
        by_cases ha : addr = k1
        · rw [ha, Memory.read_below r1 hlt1, Memory.read_below r2 hlt2]
        · simpa [Memory.read_cons_other _ _ ha] using hread addr
      rw [ih hwf1 hwf2 hrest]

/-! ### The loader's stream -/

/-- An instruction in front of a stream keeps it well-formed exactly when its specifier byte is deliverable (R19). -/
theorem programWf_instr_cons (spec : Byte) (operand : Word) (rest : List StreamElem) :
    programWf (.instr spec operand :: rest) = (spec != 0x00 && programWf rest) := by
  cases rest with
  | nil => exact (Bool.and_true _).symm
  | cons _ _ => rfl

/-- A specifier byte 0x00 is the sentinel, whatever follows (R58). -/
theorem loadProgram_zero (rest : List Byte) : loadProgram (0x00 :: rest) = [.sentinel] := by
  rw [loadProgram.eq_def]; exact if_pos rfl

/-- Another specifier byte with two bytes after it is an instruction (R58). -/
theorem loadProgram_instr {spec : Byte} (h : spec ≠ 0x00) (byte1 byte2 : Byte) (rest : List Byte) :
    loadProgram (spec :: byte1 :: byte2 :: rest) =
      .instr spec (operandOfWire byte1 byte2) :: loadProgram rest := by
  rw [loadProgram.eq_def]; exact if_neg h

/-- A truncated instruction ends the stream (R58, D23; log 16). -/
theorem loadProgram_truncated {spec : Byte} (h : spec ≠ 0x00) {rest : List Byte}
    (hshort : ∀ byte1 byte2 rest', rest ≠ byte1 :: byte2 :: rest') :
    loadProgram (spec :: rest) = [] := by
  rw [loadProgram.eq_def]
  refine (if_neg h).trans ?_
  match rest with
  | [] => rfl
  | [_] => rfl
  | byte1 :: byte2 :: rest' => exact absurd rfl (hshort byte1 byte2 rest')

/-- The loader's stream has the form of R19, whatever the bytes. -/
theorem loadProgram_wf (bytes : List Byte) : programWf (loadProgram bytes) = true := by
  induction bytes using loadProgram.induct with
  | case1 => rfl
  | case2 rest => rw [loadProgram_zero]; rfl
  | case3 spec hspec byte1 byte2 rest ih =>
    rw [loadProgram_instr hspec, programWf_instr_cons, ih, Bool.and_true]
    exact bne_iff_ne.2 hspec
  | case4 spec rest hspec hshort => rw [loadProgram_truncated hspec hshort]; rfl

/-! ### A machine that holds an instruction -/

/-- A stuck machine has no step (R20, R90). -/
theorem step_of_stuck {s : State} (h : Stuck s) : step s = .fault .awaitingInput := by
  obtain ⟨hrun, hwait, hin⟩ := h
  simp [step, hrun, hwait, resumeHeld, hin]

/-- A RUNNING machine with a held instruction and input executes that instruction (R90, D31). -/
theorem step_of_held {s : State} (hrun : s.run = .running) (hwait : s.waiting = true)
    (hin : s.input ≠ []) : step s = exec (Instr.ofIR s.ir) (endHold s) := by
  simp [step, hrun, hwait, resumeHeld, hin]

end Sys2Proof.Machine
end

section
/-! What each of the eight effects of an instruction leaves unchanged (10_state.md R25): read off `Effect` once, for the frames of `exec` and of `step`. -/

namespace Sys2Proof.Machine

/-! ### Errors -/

@[simp] theorem ErrorKind.fatal_iff (k : ErrorKind) : k.fatal = true ↔ k = .outOfRangeAddress := by
  cases k <;> decide

@[simp] theorem reportOf_kind (k : ErrorKind) (i : Instr) : (reportOf k i).kind = k := rfl

/-- An error that is not the fatal one leaves the loop running (R101, R102). -/
theorem raise_nonfatal {k : ErrorKind} (h : k ≠ .outOfRangeAddress) (i : Instr) (s : State) :
    raise k i s = logError (reportOf k i) s := if_neg (mt k.fatal_iff.1 h)

/-! ### Frames of the effects -/

namespace Effect

variable {i : Instr} {s t : State}

/-- No instruction writes X, its flags, N, the program or the loader's position (R12, R25). -/
theorem constants (h : Effect i s t) : t.x = s.x ∧ t.flagsX = s.flagsX ∧
    t.memSize = s.memSize ∧ t.prog = s.prog ∧ t.ip = s.ip := by
  cases h <;> simp

/-- A and its flags are written by LOAD, ADD and SUB alone (R25). -/
theorem accumulator_frame (h : Effect i s t)
    (hop : i.opcode ∉ [Config.opcLoad, Config.opcAdd, Config.opcSub]) :
    t.a = s.a ∧ t.flagsA = s.flagsA := by
  cases h with
  | accumulate _ h => exact absurd h hop
  | error k => simp
  | _ => exact ⟨rfl, rfl⟩

/-- Memory is written by STORE and CHAR_IN in Direct mode alone (R37). -/
theorem mem_frame (h : Effect i s t)
    (hop : i.opcode ∉ [Config.opcStore, Config.opcCharIn] ∨ i.mode ≠ .direct) : t.mem = s.mem := by
  cases h with
  | storeMemory h hm => simp [h, hm] at hop
  | readChar _ _ h hm => simp [h, hm] at hop
  | error k => simp
  | _ => rfl

/-- Input is taken and a hold begun by CHAR_IN alone (R20). -/
theorem input_frame (h : Effect i s t) (hop : i.opcode ≠ Config.opcCharIn) :
    t.input = s.input ∧ t.waiting = s.waiting := by
  cases h with
  | hold h => exact absurd h hop
  | readChar _ _ h => exact absurd h hop
  | error k => simp
  | _ => exact ⟨rfl, rfl⟩

/-- Output is written by CHAR_OUT alone (R21). -/
theorem output_frame (h : Effect i s t) (hop : i.opcode ≠ Config.opcCharOut) :
    t.output = s.output := by
  cases h with
  | writeChar _ h => exact absurd h hop
  | error k => simp
  | _ => rfl

/-- `IR` is written by STORE in Immediate mode alone (R16, R76). -/
theorem ir_frame (h : Effect i s t) (hop : i.opcode ≠ Config.opcStore ∨ i.mode ≠ .immediate) :
    t.ir = s.ir := by
  cases h with
  | storeOperand h hm => simp [h, hm] at hop
  | error k => simp
  | _ => rfl

/-- Of `IR` the operand field alone is ever written (R16). -/
theorem ir_operand_only (h : Effect i s t) : t.ir = { s.ir with operand := t.ir.operand } := by
  cases h with
  | error k => simp
  | _ => rfl

/-- The control state and the error log move in two ways, STOP and an error; every other effect leaves them. -/
theorem control_cases (h : Effect i s t) :
    (i.opcode = Config.opcStop ∧ t = halt .stop s) ∨
    (i.opcode ≠ Config.opcStop ∧ ∃ k, (reportOf k i).justified s.memSize ∧ t = raise k i s) ∨
    (t.run = s.run ∧ t.haltCause = s.haltCause ∧ t.errs = s.errs) := by
  cases h with
  | stop h => exact .inl ⟨h, rfl⟩
  | error k h hop => exact .inr (.inl ⟨hop, k, h, rfl⟩)
  | _ => exact .inr (.inr ⟨rfl, rfl, rfl⟩)

end Effect

/-! ### The streams over one transition -/

/-- Between `s` and `t` at most one byte is written, at most one report made, with no other effect, and at most the first byte of input taken (R20, R21, R22, R44). -/
def StreamsMoveInOrder (s t : State) : Prop :=
  (t.output = s.output ∨ ∃ b, t.output = s.output ++ [b]) ∧
  (t.errs = s.errs ∨ ∃ rep, t.errs = s.errs ++ [rep]) ∧
  (t.input = s.input ∨ ∃ b, s.input = b :: t.input) ∧
  (t.errs = s.errs ∨ (t.output = s.output ∧ t.input = s.input ∧ t.mem = s.mem ∧ t.a = s.a ∧
    t.flagsA = s.flagsA))

theorem Effect.streams {i : Instr} {s t : State} (h : Effect i s t) : StreamsMoveInOrder s t := by
  cases h with
  | error k => exact ⟨.inl (by simp), .inr ⟨_, raise_errs s k i⟩, .inl (by simp), .inr (by simp)⟩
  | readChar b rest _ _ _ hin => exact ⟨.inl rfl, .inl rfl, .inr ⟨b, hin⟩, .inl rfl⟩
  | writeChar b => exact ⟨.inr ⟨b, rfl⟩, .inl rfl, .inl rfl, .inl rfl⟩
  | _ => exact ⟨.inl rfl, .inl rfl, .inl rfl, .inl rfl⟩

/-- The streams move in order over a step: the fetch and the end of a hold touch none of them. -/
theorem step_streams {s t : State} (h : step s = .next t) : StreamsMoveInOrder s t := by
  obtain ⟨-, -, rfl⟩ | ⟨-, -, rfl⟩ | ⟨-, spec, operand, -, he⟩ | ⟨-, -, -, he⟩ := step_cases h
  · exact ⟨.inl rfl, .inl rfl, .inl rfl, .inl rfl⟩
  · exact ⟨.inl rfl, .inl rfl, .inl rfl, .inl rfl⟩
  · exact he.streams
  · exact he.streams

/-- No step writes X, its flags, N or the program, and `ip` counts at most one element (R12, R19, R122). -/
theorem step_constants {s t : State} (h : step s = .next t) :
    t.x = s.x ∧ t.flagsX = s.flagsX ∧ t.memSize = s.memSize ∧ t.prog = s.prog ∧
      (t.ip = s.ip ∨ t.ip = s.ip + 1) := by
  obtain ⟨-, -, rfl⟩ | ⟨-, -, rfl⟩ | ⟨-, spec, operand, -, he⟩ | ⟨-, -, -, he⟩ := step_cases h
  · exact ⟨rfl, rfl, rfl, rfl, .inl rfl⟩
  · exact ⟨rfl, rfl, rfl, rfl, .inl rfl⟩
  · obtain ⟨hx, hfx, hn, hprog, hip⟩ := he.constants
    exact ⟨hx, hfx, hn, hprog, .inr hip⟩
  · obtain ⟨hx, hfx, hn, hprog, hip⟩ := he.constants
    exact ⟨hx, hfx, hn, hprog, .inl hip⟩

end Sys2Proof.Machine
end

section
/-! The invariant of the machine: every operation that an instruction, the fetch loop or the environment uses keeps it, and so every step does. -/

namespace Sys2Proof.Machine

variable {s t : State}

/-! ### Reset and the environment -/

/-- A reset machine of a legal size with a well-formed program has the invariant (R24, R120). -/
theorem machineInv_resetWith {n : Nat} {prog : List StreamElem} (input : List Byte)
    (hn : memSizeWf n = true) (hprog : programWf prog = true) :
    MachineInv (State.resetWith n prog input) where
  size_legal := hn
  mem_canonical := rfl
  mem_inside := List.forall_mem_nil _
  cause_agrees := iff_of_true rfl rfl
  ip_bounded := Nat.zero_le _
  program_wf := hprog
  flags_a := .inr ⟨rfl, rfl⟩
  x_reset := ⟨rfl, rfl⟩
  ir_tracks := rfl
  held := nofun
  reports_justified := List.forall_mem_nil _
  fatal_report := by simp

/-- A byte of input appended keeps the invariant, which does not speak of the input (R20). -/
theorem MachineInv.supplyInput (h : MachineInv s) (b : Byte) : MachineInv (supplyInput b s) :=
  { h with }

namespace MachineInv

/-! ### The operations of the state -/

theorem outWrite (h : MachineInv s) (b : Byte) : MachineInv (outWrite b s) := { h with }

theorem dropInput (h : MachineInv s) (rest : List Byte) : MachineInv { s with input := rest } :=
  { h with }

theorem endHold (h : MachineInv s) : MachineInv (endHold s) := { h with held := nofun }

theorem holdForInput (h : MachineInv s) (hheld : HeldIsCharIn s) : MachineInv (holdForInput s) :=
  { h with held := fun _ => hheld }

theorem setAccumulator (h : MachineInv s) (v : Word) : MachineInv (setRegister .a v s) :=
  { h with flags_a := .inl rfl }

theorem memWrite1 (h : MachineInv s) {addr : Nat} (b : Byte) (haddr : addr < s.memSize) :
    MachineInv (memWrite1 addr b s) :=
  { h with
    mem_canonical := Memory.write_wf _ _ _ h.mem_canonical
    mem_inside := Memory.write_inside b h.mem_inside haddr }

theorem memWrite2 (h : MachineInv s) {addr : Nat} (v : Word) (haddr : addr + 1 < s.memSize) :
    MachineInv (memWrite2 addr v s) :=
  (h.memWrite1 (lowerAddressByte v) (Nat.lt_of_succ_lt haddr)).memWrite1 (higherAddressByte v) haddr

/-- A RUNNING machine has made no fatal report (R103). -/
theorem no_fatal_report (h : MachineInv s) (hrun : s.run = .running) :
    ¬ ∃ rep ∈ s.errs, rep.kind = .outOfRangeAddress := by
  rw [h.fatal_report, h.cause_agrees.2 hrun]
  decide

/-- A halt by STOP, the sentinel or the end of the stream (R95). -/
theorem halt (h : MachineInv s) (hrun : s.run = .running) (hwait : s.waiting = false)
    {c : HaltCause} (hnone : c ≠ .none) (hoor : c ≠ .outOfRange) : MachineInv (halt c s) :=
  { h with
    cause_agrees := iff_of_false hnone (by simp)
    held := fun hw => absurd (hwait.symm.trans hw) Bool.false_ne_true
    fatal_report := iff_of_false (h.no_fatal_report hrun) hoor }

/-- A justified report keeps the invariant: the fatal kind halts the loop in the same action (R100, R103). -/
theorem raise (h : MachineInv s) (hrun : s.run = .running) (hwait : s.waiting = false)
    {k : ErrorKind} {i : Instr} (hrep : (reportOf k i).justified s.memSize) :
    MachineInv (raise k i s) := by
  have hreports : ∀ rep ∈ s.errs ++ [reportOf k i], rep.justified s.memSize :=
    List.forall_mem_append.2 ⟨h.reports_justified, List.forall_mem_singleton.2 hrep⟩
  by_cases hk : k = .outOfRangeAddress
  · subst hk
    exact { h with
      cause_agrees := iff_of_false (by simp) (by simp)
      held := fun hw => absurd (hwait.symm.trans hw) Bool.false_ne_true
      reports_justified := hreports
      fatal_report := iff_of_true ⟨reportOf .outOfRangeAddress i, by simp, rfl⟩ rfl }
  · rw [raise_nonfatal hk]
    refine { h with reports_justified := hreports, fatal_report := iff_of_false ?_ ?_ }
    · rintro ⟨rep, hmem, hkind⟩
      rcases List.mem_append.1 hmem with hmem | hmem
      · exact h.no_fatal_report hrun ⟨rep, hmem, hkind⟩
      · obtain rfl := List.mem_singleton.1 hmem
        exact hk hkind
    · simp [h.cause_agrees.2 hrun]

/-- STORE in Immediate mode writes the operand field of an `IR` that holds that STORE (R16, R76). -/
theorem setIrOperand (h : MachineInv s) (v : Word) (hwait : s.waiting = false)
    (hop : s.ir.opcode = Config.opcStore) (hmode : s.ir.mode = Config.modeImmediate) :
    MachineInv (setIrOperand v s) := by
  refine { h with
    ir_tracks := ?_
    held := fun hw => absurd (hwait.symm.trans hw) Bool.false_ne_true }
  have htracks := h.ir_tracks
  unfold IrTracksProgram at htracks ⊢
  cases hip : s.ip with
  | zero =>
    rw [hip] at htracks
    rw [htracks] at hop
    exact absurd hop (by decide)
  | succ k =>
    rw [hip] at htracks
    obtain ⟨spec, operand, hprog, hspec, -⟩ := htracks
    simp only [setIrOperand_ip, hip]
    exact ⟨spec, operand, hprog, hspec, .inr ⟨hop, hmode⟩⟩

/-! ### The fetch, the execution, the step -/

/-- The fetch counts an element that exists and puts into `IR` what it delivered (R90, R91). -/
theorem takeInstr (h : MachineInv s) (hwait : s.waiting = false) {spec : Byte} {operand : Word}
    (hprog : s.prog[s.ip]? = some (.instr spec operand)) : MachineInv (takeInstr spec operand s) :=
  { h with
    ip_bounded := (List.getElem?_eq_some_iff.1 hprog).1
    ir_tracks := ⟨spec, operand, hprog, specifier_decodeFields spec operand, .inl rfl⟩
    held := fun hw => absurd (hwait.symm.trans hw) Bool.false_ne_true }

/-- An instruction executed with itself in `IR`, in a RUNNING machine that holds nothing, keeps the invariant. -/
theorem effect {i : Instr} (h : MachineInv s) (hrun : s.run = .running) (hwait : s.waiting = false)
    (hir : s.ir = i.toIR) (he : Effect i s t) : MachineInv t := by
  have hirop : s.ir.opcode = i.opcode := congrArg InstrReg.opcode hir
  have hirmode : s.ir.mode = i.mode.bits := congrArg InstrReg.mode hir
  have hiroperand : s.ir.operand = i.operand := congrArg InstrReg.operand hir
  cases he with
  | stop => exact h.halt hrun hwait (by decide) (by decide)
  | error k hrep => exact h.raise hrun hwait hrep
  | accumulate v => exact h.setAccumulator v
  | storeOperand hop hm => exact h.setIrOperand s.a hwait (hirop.trans hop) (by rw [hirmode, hm]; rfl)
  | storeMemory _ _ ha => exact h.memWrite2 s.a ((inRange_iff _ _ _).1 ha)
  | hold hop hm ha =>
    exact h.holdForInput ⟨hrun, hirop.trans hop, by rw [hirmode, hm]; rfl, hiroperand ▸ ha⟩
  | readChar b rest _ _ ha => exact (h.dropInput rest).memWrite1 b ((inRange_iff _ _ _).1 ha)
  | writeChar b => exact h.outWrite b

/-- Every step keeps the invariant: it halts at the end of the program, or executes an instruction with itself in `IR`. -/
theorem step (h : MachineInv s) (hstep : step s = .next t) : MachineInv t := by
  obtain ⟨⟨hrun, hwait⟩, -, rfl⟩ | ⟨⟨hrun, hwait⟩, -, rfl⟩ |
    ⟨⟨hrun, hwait⟩, spec, operand, hprog, he⟩ | ⟨hrun, -, -, he⟩ := step_cases hstep
  · exact h.halt hrun hwait (by decide) (by decide)
  · exact h.halt hrun hwait (by decide) (by decide)
  · exact (h.takeInstr hwait hprog).effect hrun hwait (toIR_decode spec operand).symm he
  · exact h.endHold.effect hrun rfl (toIR_ofIR s.ir).symm he

end MachineInv

end Sys2Proof.Machine
end

section
/-! What `exec` does by opcode: the accumulator and its flags, CHAR_IN, and the parts of the state that no instruction reads. -/

namespace Sys2Proof.Machine

/-! ### LOAD, ADD and SUB over any source -/

/-- What LOAD, ADD or SUB puts into A, by opcode, from A and the source word (R75, R80, R81). -/
def accumulatorResult (op : BitVec 5) (a v : Word) : Word :=
  if op = Config.opcLoad then v else if op = Config.opcAdd then addWords a v else subWords a v

/-- LOAD, ADD and SUB are one instruction over a source word but for `accumulatorResult`. -/
theorem exec_accumulate {i : Instr}
    (hop : i.opcode ∈ [Config.opcLoad, Config.opcAdd, Config.opcSub]) (s : State) :
    exec i s = .next (withSource i (srcWord i.mode i.operand s)
      (fun v => setRegister .a (accumulatorResult i.opcode s.a v) s) s) := by
  cases i with
  | load | add | sub => rfl
  | _ => exact absurd hop (of_decide_eq_true rfl)

/-- Between `s` and `t` the instruction `i`, LOAD, ADD or SUB on a source that is a value, has written A and its flags (R14, R75, R80, R81). -/
def AccumulatorWritten (i : Instr) (s t : State) : Prop :=
  i.opcode ∈ [Config.opcLoad, Config.opcAdd, Config.opcSub] ∧
    ∃ v, srcWord i.mode i.operand s = .value v ∧ t.a = accumulatorResult i.opcode s.a v ∧
      t.flagsA = flagsOf t.a

/-- The instruction `i` writes no accumulator at `s`: it is no LOAD, ADD or SUB, or its source is rejected (R102, R103). -/
def WritesNoAccumulator (i : Instr) (s : State) : Prop :=
  i.opcode ∈ [Config.opcLoad, Config.opcAdd, Config.opcSub] →
    ∀ v, srcWord i.mode i.operand s ≠ .value v

/-- An instruction writes A and its flags, or leaves them alone (R14, R25). -/
theorem exec_accumulator_cases {i : Instr} {s t : State} (h : exec i s = .next t) :
    AccumulatorWritten i s t ∨
      (WritesNoAccumulator i s ∧ t.a = s.a ∧ t.flagsA = s.flagsA) := by
  by_cases hop : i.opcode ∈ [Config.opcLoad, Config.opcAdd, Config.opcSub]
  · rw [exec_accumulate hop] at h
    obtain rfl := Host.Outcome.next.inj h
    unfold AccumulatorWritten WritesNoAccumulator
    cases hsrc : srcWord i.mode i.operand s with
    | value v => exact .inl ⟨hop, v, rfl, rfl, rfl⟩
    | invalid => exact .inr ⟨nofun, raise_a .., raise_flagsA ..⟩
    | outOfRange => exact .inr ⟨nofun, raise_a .., raise_flagsA ..⟩
  · exact .inr ⟨fun hmem => absurd hmem hop, (effect_of_exec h).accumulator_frame hop⟩

/-- The same of a step, by the instruction it executes: neither the fetch nor the end of a hold touches A, its flags or a source word. -/
theorem step_accumulator_cases {s t : State} (h : step s = .next t) :
    (∃ i, executedInstr s = some i ∧ AccumulatorWritten i s t) ∨
    ((∀ i, executedInstr s = some i → WritesNoAccumulator i s) ∧
      t.a = s.a ∧ t.flagsA = s.flagsA) := by
  obtain ⟨hnone, c, rfl⟩ | ⟨i, hi, hexec⟩ := step_executes h
  · exact .inr ⟨fun i hi => (nomatch hnone.symm.trans hi), rfl, rfl⟩
  · have hcases : AccumulatorWritten i s t ∨
        (WritesNoAccumulator i s ∧ t.a = s.a ∧ t.flagsA = s.flagsA) := by
      obtain ⟨spec, operand, hexec⟩ | hexec := hexec
      · exact (exec_accumulator_cases hexec :)
      · exact (exec_accumulator_cases hexec :)
    obtain hwritten | ⟨hnot, hkept⟩ := hcases
    · exact .inl ⟨i, hi, hwritten⟩
    · refine .inr ⟨fun j hj => ?_, hkept⟩
      obtain rfl := Option.some.inj (hi.symm.trans hj)
      exact hnot

/-! ### CHAR_IN whose checks pass -/

/-- The one constructor of opcode 27 is CHAR_IN. -/
theorem Instr.eq_charIn {i : Instr} (h : i.opcode = Config.opcCharIn) :
    i = .charIn i.reg i.mode i.operand := by
  cases i with
  | charIn => rfl
  | _ => exact absurd h (of_decide_eq_true rfl)

theorem dest_direct {w : Word} {n : Nat} {s : State} (h : w.toNat + n ≤ s.memSize) :
    dest .direct w n s = .memAt w.toNat := if_pos ((inRange_iff _ _ _).2 h)

/-- With no byte available a checked CHAR_IN is held (R20, D31; log 5). -/
theorem exec_charIn_hold (r : Reg) {w : Word} {s : State} (ha : w.toNat + 1 ≤ s.memSize)
    (hin : s.input = []) : exec (.charIn r .direct w) s = .next (holdForInput s) := by
  simp [exec, execCharIn, dest_direct ha, inRead, hin]

/-- With a byte available a checked CHAR_IN takes it to memory (R85). -/
theorem exec_charIn_read (r : Reg) {w : Word} {b : Byte} {rest : List Byte} {s : State}
    (ha : w.toNat + 1 ≤ s.memSize) (hin : s.input = b :: rest) :
    exec (.charIn r .direct w) s = .next (memWrite1 w.toNat b { s with input := rest }) := by
  simp [exec, execCharIn, dest_direct ha, inRead, hin]

/-- The instruction held in `IR` is a CHAR_IN in Direct mode on `IR`'s operand (R90). -/
theorem HeldIsCharIn.ofIR_eq {s : State} (h : HeldIsCharIn s) :
    ∃ r, Instr.ofIR s.ir = .charIn r .direct s.ir.operand := by
  obtain ⟨-, hop, hmode, -⟩ := h
  have hi := Instr.eq_charIn ((opcode_ofIR s.ir).trans hop)
  have hm : (Instr.ofIR s.ir).mode = .direct := by
    rw [← Mode.ofBits_bits (Instr.ofIR s.ir).mode, mode_ofIR, hmode]; rfl
  rw [hm, operand_ofIR] at hi
  exact ⟨_, hi⟩

/-- A held CHAR_IN completes with the byte that has arrived (R20, R90, D31; log 5). -/
theorem step_of_heldCharIn {s : State} {b : Byte} {rest : List Byte} (h : HeldIsCharIn s)
    (hwait : s.waiting = true) (hin : s.input = b :: rest) :
    step s = .next (memWrite1 s.ir.operand.toNat b { endHold s with input := rest }) := by
  obtain ⟨r, hi⟩ := h.ofIR_eq
  obtain ⟨hrun, -, -, ha⟩ := h
  rw [step_of_held hrun hwait (by simp [hin]), hi]
  exact exec_charIn_read r ((inRange_iff _ _ _).1 ha) hin

/-! ### The flags and X are never read -/

/-- The state `s` with its flags and X replaced. -/
def withFlagsAndX (fa fx : Flags) (x : Word) (s : State) : State :=
  { s with flagsA := fa, flagsX := fx, x := x }

/-- From `s` an instruction reached `t`, and from `withFlagsAndX fa fx x s` it reached `u`: the two differ in the flags and X alone, and in A's flags only where neither run wrote them. -/
def AgreeButFlagsAndX (fa fx : Flags) (x : Word) (s t u : State) : Prop :=
  u = { t with flagsA := u.flagsA, flagsX := fx, x := x } ∧
    (u.flagsA = t.flagsA ∨ (u.flagsA = fa ∧ t.flagsA = s.flagsA))

section

variable (fa fx : Flags) (x : Word) (s : State)

theorem raise_agree (k : ErrorKind) (i : Instr) :
    AgreeButFlagsAndX fa fx x s (raise k i s) (raise k i (withFlagsAndX fa fx x s)) := by
  unfold raise
  split
  · exact ⟨rfl, .inr ⟨rfl, rfl⟩⟩
  · exact ⟨rfl, .inr ⟨rfl, rfl⟩⟩

/-- Over a source the two runs agree where their effects do: a source is read from the operand and memory. -/
theorem withSource_agree {α : Type} (i : Instr) (src : Source α) {effect effect' : α → State}
    (h : ∀ v, AgreeButFlagsAndX fa fx x s (effect v) (effect' v)) :
    AgreeButFlagsAndX fa fx x s (withSource i src effect s)
      (withSource i src effect' (withFlagsAndX fa fx x s)) := by
  cases src with
  | invalid => exact raise_agree fa fx x s _ i
  | outOfRange => exact raise_agree fa fx x s _ i
  | value v => exact h v

theorem setAccumulator_agree (v : Word) : AgreeButFlagsAndX fa fx x s
    (setRegister .a v s) (setRegister .a v (withFlagsAndX fa fx x s)) := ⟨rfl, .inl rfl⟩

/-- No instruction reads a flag or X (R12, R13). -/
theorem exec_agree (i : Instr) : ∃ t u, exec i s = .next t ∧
    exec i (withFlagsAndX fa fx x s) = .next u ∧ AgreeButFlagsAndX fa fx x s t u := by
  cases i with
  | stop => exact ⟨_, _, rfl, rfl, rfl, .inr ⟨rfl, rfl⟩⟩
  | load | add | sub =>
    exact ⟨_, _, rfl, rfl, withSource_agree fa fx x s _ _ fun _ => setAccumulator_agree fa fx x s _⟩
  | charOut =>
    exact ⟨_, _, rfl, rfl, withSource_agree fa fx x s _ _ fun _ => ⟨rfl, .inr ⟨rfl, rfl⟩⟩⟩
  | store r m w =>
    refine ⟨_, _, rfl, rfl, ?_⟩
    have hdest : dest m w 2 (withFlagsAndX fa fx x s) = dest m w 2 s := rfl
    rw [hdest]
    cases dest m w 2 s with
    | operandField => exact ⟨rfl, .inr ⟨rfl, rfl⟩⟩
    | invalid => exact raise_agree fa fx x s _ _
    | outOfRange => exact raise_agree fa fx x s _ _
    | memAt addr => exact ⟨rfl, .inr ⟨rfl, rfl⟩⟩
  | charIn r m w =>
    refine ⟨_, _, rfl, rfl, ?_⟩
    have hdest : dest m w 1 (withFlagsAndX fa fx x s) = dest m w 1 s := rfl
    rw [hdest]
    cases dest m w 1 s with
    | operandField => exact raise_agree fa fx x s _ _
    | invalid => exact raise_agree fa fx x s _ _
    | outOfRange => exact raise_agree fa fx x s _ _
    | memAt addr =>
      have hin' : (withFlagsAndX fa fx x s).input = s.input := rfl
      cases hin : s.input with
      | nil =>
        rw [hin] at hin'
        simp only [inRead, hin, hin']
        exact ⟨rfl, .inr ⟨rfl, rfl⟩⟩
      | cons b rest =>
        rw [hin] at hin'
        simp only [inRead, hin, hin']
        exact ⟨rfl, .inr ⟨rfl, rfl⟩⟩
  | _ => exact ⟨_, _, rfl, rfl, raise_agree fa fx x s _ _⟩

end

end Sys2Proof.Machine
end

section
/-! The obligations of 10_state.md: the state, its frames, its invariant, reset. -/

open Sys2Proof Sys2Proof.Machine

namespace Sys2Proof.StateProofs

/-! ### The invariant -/

/-- Settles O45: each operation of the step keeps the invariant (`MachineInv.step`). -/
theorem stepKeepsInvariant : Obligations.StepKeepsInvariant :=
  fun _ _ h hstep => h.step hstep

/-- Settles O46: the loader's stream is well-formed, and 32 is a legal size. -/
theorem resetMeetsInvariant : Obligations.ResetMeetsInvariant :=
  ⟨fun _ bytes input hn => machineInv_resetWith input hn (loadProgram_wf bytes),
    machineInv_resetWith [] (by decide) rfl⟩

/-- Settles O47: the invariant does not speak of the input, and reset keeps the size. -/
theorem environmentKeepsInvariant : Obligations.EnvironmentKeepsInvariant :=
  fun _ b bytes input h =>
    ⟨h.supplyInput b, machineInv_resetWith input h.size_legal (loadProgram_wf bytes)⟩

/-! ### The loader's stream and memory -/

/-- Settles O8, by induction along the loader's own recursion (`loadProgram_wf`). -/
theorem loaderMakesWellFormedStreams : Obligations.LoaderMakesWellFormedStreams := loadProgram_wf

/-- Settles O11, from the two facts a write keeps: canonical form and the bound. -/
theorem memoryWritesKeepCanonicalForm : Obligations.MemoryWritesKeepCanonicalForm :=
  fun mem _ addr b hwf hmem haddr =>
    ⟨Memory.write_wf mem addr b hwf, Memory.write_inside b hmem haddr⟩

/-- Settles O12, by induction on the lists: their heads agree, then their tails (`Memory.eq_of_read_eq`). -/
theorem canonicalMemoryIsUnique : Obligations.CanonicalMemoryIsUnique :=
  fun _ _ h1 h2 hread => Memory.eq_of_read_eq h1 h2 hread

/-! ### Frames of the instructions -/

/-- Settles O28, from the frames of `Effect`. -/
theorem registerFrame : Obligations.RegisterFrame := by
  intro i s t h
  have he := effect_of_exec h
  exact ⟨he.accumulator_frame, he.constants⟩

/-- Settles O29: the memory itself is the same list. -/
theorem memoryFrameOfFormsThatStoreNothing : Obligations.MemoryFrameOfFormsThatStoreNothing := by
  intro i s t h hop addr
  unfold readByte
  rw [(effect_of_exec h).mem_frame hop]

/-- Settles O31, from the frames of `Effect`. -/
theorem streamAndInstructionRegisterFrame : Obligations.StreamAndInstructionRegisterFrame := by
  intro i s t h
  have he := effect_of_exec h
  exact ⟨he.input_frame, he.output_frame, he.ir_frame, he.ir_operand_only⟩

/-- Settles O32: STOP, an error and every other effect, one by one. -/
theorem controlFrame : Obligations.ControlFrame := by
  intro i s t h
  obtain ⟨hop, rfl⟩ | ⟨hop, k, hrep, rfl⟩ | ⟨hrun, hcause, herrs⟩ := (effect_of_exec h).control_cases
  · exact ⟨fun hne => absurd hop hne, .inl rfl, fun _ => rfl⟩
  · refine ⟨fun _ hno => ?_, .inr ⟨reportOf k i, rfl, rfl, hrep, raise_errs s k i⟩,
      fun hstop => absurd hstop hop⟩
    have hk : k ≠ .outOfRangeAddress := fun hk => hno ⟨reportOf k i, raise_errs s k i, hk⟩
    rw [raise_nonfatal hk]
    exact ⟨rfl, rfl⟩
  · exact ⟨fun _ _ => ⟨hrun, hcause⟩, .inl herrs, fun _ => herrs⟩

/-- Settles O35: the two runs have the same effect, case by case (`exec_agree`). -/
theorem flagsAndIndexRegisterAreNeverRead : Obligations.FlagsAndIndexRegisterAreNeverRead := by
  intro i s t u fa fx x ht hu
  obtain ⟨t', u', ht', hu', hagree⟩ := exec_agree fa fx x s i
  obtain rfl := Host.Outcome.next.inj (ht'.symm.trans ht)
  obtain rfl := Host.Outcome.next.inj (hu'.symm.trans hu)
  exact hagree

/-- Settles O9: the two registers one by one; the sign of a word is its upper half. -/
theorem setRegisterWritesValueAndFlags : Obligations.SetRegisterWritesValueAndFlags := by
  intro r v s
  have hnegative : (flagsOf v).negative = decide (v.toNat / 32768 = 1) := by
    rw [flagsOf_eq]
    exact decide_eq_decide.2 (by omega)
  cases r with
  | a =>
    refine ⟨rfl, rfl, hnegative, fun r' hr => ?_, rfl⟩
    cases r' with
    | a => exact absurd rfl hr
    | x => exact ⟨rfl, rfl⟩
  | x =>
    refine ⟨rfl, rfl, hnegative, fun r' hr => ?_, rfl⟩
    cases r' with
    | a => exact ⟨rfl, rfl⟩
    | x => exact absurd rfl hr

/-! ### A held CHAR_IN -/

/-- Settles O23: the hold, then the stuck state it makes. -/
theorem charInHoldsWhileInputEmpty : Obligations.CharInHoldsWhileInputEmpty :=
  fun r _ _ ha hin => ⟨exec_charIn_hold r ha hin, fun hrun => step_of_stuck ⟨hrun, rfl, hin⟩⟩

/-- Settles O43: the held instruction is a checked CHAR_IN, and the byte that arrives is the whole input. -/
theorem heldCharInCompletesWhenInputArrives : Obligations.HeldCharInCompletesWhenInputArrives := by
  intro s b h hwait hin
  have hheld := h.held hwait
  have ⟨hrun, _⟩ := hheld
  have hstep := step_of_heldCharIn (s := supplyInput b s) (b := b) (rest := []) hheld hwait
    (by simp [hin])
  refine ⟨step_of_stuck ⟨hrun, hwait, hin⟩, _, hstep, ?_, ?_, ?_⟩
  · exact readByte_memWrite1_same _ _ _ h.mem_canonical
  · exact fun k hk => readByte_memWrite1_other _ b hk
  · simp only [memWrite1, endHold, supplyInput, hin]

/-! ### The steps -/

/-- Settles O48: a step writes A and its flags together or leaves both (`step_accumulator_cases`). -/
theorem flagsFollowTheAccumulator : Obligations.FlagsFollowTheAccumulator := by
  intro s t h
  obtain ⟨i, hi, hop, v, hsrc, ha, hflags⟩ | ⟨hnot, ha, hflags⟩ := step_accumulator_cases h
  · refine ⟨fun _ => hflags, fun j w hj hsrc' => ?_, fun hno => absurd hsrc (hno i hi hop v)⟩
    obtain rfl := Option.some.inj (hi.symm.trans hj)
    obtain rfl := Source.value.inj (hsrc.symm.trans hsrc')
    refine ⟨fun hload => ⟨?_, hflags⟩, fun hadd => ⟨?_, hflags⟩, fun hsub => ⟨?_, hflags⟩⟩
    · rw [ha, hload]; rfl
    · rw [ha, hadd]; exact toNat_addWords s.a v
    · rw [ha, hsub]; exact toNat_subWords s.a v
  · refine ⟨fun hs => by rw [hflags, ha, hs], fun j w hj hsrc => ?_, fun _ => ⟨ha, hflags⟩⟩
    have hop : j.opcode ∉ [Config.opcLoad, Config.opcAdd, Config.opcSub] :=
      fun hop => hnot j hj hop w hsrc
    simp only [List.mem_cons, List.not_mem_nil, or_false, not_or] at hop
    obtain ⟨hload, hadd, hsub⟩ := hop
    exact ⟨fun h => absurd h hload, fun h => absurd h hadd, fun h => absurd h hsub⟩

/-- Settles O49, from what every effect leaves unchanged. -/
theorem stepLeavesProgramAndIndexRegister : Obligations.StepLeavesProgramAndIndexRegister :=
  fun _ _ h => step_constants h

/-- Settles O50, effect by effect. -/
theorem streamsAreTakenAndAppendedInOrder : Obligations.StreamsAreTakenAndAppendedInOrder :=
  fun _ _ h => step_streams h

/-! ### Reset -/

/-- Settles O53: a reset memory lists no byte; the rest is the definition. -/
theorem resetLeaves : Obligations.ResetLeaves :=
  fun _ _ _ _ => ⟨Memory.read_nil, rfl, rfl, rfl, rfl, rfl, rfl, rfl, rfl, rfl, rfl, rfl, rfl, rfl,
    rfl, rfl⟩

end Sys2Proof.StateProofs
end

section
/-! Direct mode of 20_memory.md R41 to R43 by the bounds of its access, and what LOAD, STORE and CHAR_OUT do there; the bytes an instruction leaves alone. -/

namespace Sys2Proof.Machine

/-! ### The multiplexer in Direct mode (`dest_direct` is the destination in range) -/

section

variable {w : Word} {n : Nat} {s : State}

theorem srcWord_direct (h : w.toNat + 2 ≤ s.memSize) :
    srcWord .direct w s = .value (memRead2 w.toNat s) := if_pos ((inRange_iff _ _ _).2 h)

theorem srcByte_direct (h : w.toNat + 1 ≤ s.memSize) :
    srcByte .direct w s = .value (memRead1 w.toNat s) := if_pos ((inRange_iff _ _ _).2 h)

/-- An access that does not lie below N as a whole is not in range, with no wrap-around (R32, D7). -/
theorem not_inRange_effectiveAddress (h : s.memSize < w.toNat + n) :
    ¬ inRange (effectiveAddress w) n s = true :=
  fun hin => absurd ((inRange_iff _ _ _).1 hin) (Nat.not_le.2 h)

theorem srcWord_direct_outOfRange (h : s.memSize < w.toNat + 2) :
    srcWord .direct w s = .outOfRange := if_neg (not_inRange_effectiveAddress h)

theorem srcByte_direct_outOfRange (h : s.memSize < w.toNat + 1) :
    srcByte .direct w s = .outOfRange := if_neg (not_inRange_effectiveAddress h)

theorem dest_direct_outOfRange (h : s.memSize < w.toNat + n) :
    dest .direct w n s = .outOfRange := if_neg (not_inRange_effectiveAddress h)

/-! ### LOAD, STORE and CHAR_OUT in Direct mode, in range -/

variable (r : Reg)

/-- LOAD puts the word in memory into A (R75). -/
theorem exec_load_direct (h : w.toNat + 2 ≤ s.memSize) :
    exec (.load r .direct w) s = .next (setRegister .a (memRead2 w.toNat s) s) := by
  simp [exec, execLoad, srcWord_direct h, withSource]

/-- STORE puts A into two bytes of memory (R76). -/
theorem exec_store_direct (h : w.toNat + 2 ≤ s.memSize) :
    exec (.store r .direct w) s = .next (memWrite2 w.toNat s.a s) := by
  simp [exec, execStore, dest_direct h, readReg]

/-- CHAR_OUT writes the byte in memory to the output (R86). -/
theorem exec_charOut_direct (h : w.toNat + 1 ≤ s.memSize) :
    exec (.charOut r .direct w) s = .next (outWrite (memRead1 w.toNat s) s) := by
  simp [exec, execCharOut, srcByte_direct h, withSource]

end

/-! ### The byte order (R35, D4; log 7) -/

/-- The high byte lies at the lower address. -/
theorem lowerAddressByte_eq (v : Word) : lowerAddressByte v = v.extractLsb 15 8 := rfl

/-- The low byte lies at the next address. -/
theorem higherAddressByte_eq (v : Word) : higherAddressByte v = v.extractLsb 7 0 := rfl

/-- A word whose lower-address byte is 0 is its other byte, zero-extended. -/
theorem wordOfMem_zero_lower (b : Byte) : wordOfMem 0x00 b = b.setWidth 16 :=
  (BitVec.setWidth_eq_append (by decide)).symm

/-- Output touches no byte of memory. -/
@[simp] theorem readByte_outWrite (b : Byte) (s : State) (addr : Nat) :
    readByte (outWrite b s) addr = readByte s addr := rfl

/-! ### The bytes an instruction leaves alone -/

/-- An instruction changes no byte outside the access the multiplexer grants it as a destination (R34, R37, R43). -/
theorem Effect.readByte_frame {i : Instr} {s t : State} (h : Effect i s t) {n : Nat}
    (hn : accessWidth i.opcode = some n) {addr : Nat}
    (hout : ∀ base, dest i.mode i.operand n s = .memAt base → addr < base ∨ base + n ≤ addr) :
    readByte t addr = readByte s addr := by
  cases h with
  | storeMemory hop hm ha =>
    rw [hop] at hn
    obtain rfl : 2 = n := Option.some.inj hn
    rw [hm] at hout
    have hoff := hout _ (if_pos ha)
    exact readByte_memWrite2_other s s.a (by omega) (by omega)
  | readChar b rest hop hm ha =>
    rw [hop] at hn
    obtain rfl : 1 = n := Option.some.inj hn
    rw [hm] at hout
    have hoff := hout _ (if_pos ha)
    exact readByte_memWrite1_other _ b (by omega)
  | error k => unfold readByte; rw [raise_mem]
  | _ => rfl

/-- The same by what the multiplexer answers: an address, or none. -/
theorem readByte_frame_of_exec {i : Instr} {s t : State} {n : Nat}
    (hn : accessWidth i.opcode = some n) (h : exec i s = .next t) :
    (∀ base, dest i.mode i.operand n s = .memAt base →
      ∀ addr, addr < base ∨ base + n ≤ addr → readByte t addr = readByte s addr) ∧
    ((∀ base, dest i.mode i.operand n s ≠ .memAt base) →
      ∀ addr, readByte t addr = readByte s addr) := by
  have he := effect_of_exec h
  refine ⟨fun base hdest addr hout => he.readByte_frame hn fun base' hdest' => ?_,
    fun hnone addr => he.readByte_frame hn fun base hdest => absurd hdest (hnone base)⟩
  obtain rfl := Target.memAt.inj (hdest.symm.trans hdest')
  exact hout

end Sys2Proof.Machine
end

section
/-! The obligations of 20_memory.md: reads and writes of memory, its byte order, the multiplexer, the frame of the stores. -/

open Sys2Proof Sys2Proof.Machine

namespace Sys2Proof.MemoryProofs

/-! ### The memory -/

/-- Settles O10, from read-after-write in a canonical memory and the bytes of a word. -/
theorem memoryReadsBackWrites : Obligations.MemoryReadsBackWrites := by
  intro s addr b v hwf
  refine ⟨readByte_memWrite1_same s addr b hwf, fun k hk => readByte_memWrite1_other s b hk,
    ?_, ?_, fun k hk hk1 => readByte_memWrite2_other s v hk hk1, memRead2_memWrite2 s addr v hwf⟩
  · rw [readByte_memWrite2_lower s addr v hwf, lowerAddressByte_eq]
  · rw [readByte_memWrite2_higher s addr v hwf, higherAddressByte_eq]

/-- Settles O30: STORE and CHAR_IN are two of the instructions with a memory access. -/
theorem memoryFrameOfStores : Obligations.MemoryFrameOfStores :=
  fun _ _ _ _ _ => ⟨readByte_frame_of_exec rfl, readByte_frame_of_exec rfl⟩

/-- A word stored and written out byte by byte comes high byte first (R35, D4; log 7). -/
theorem store_charOut_charOut (r : Reg) {w w1 : Word} {s : State} (hw1 : w1.toNat = w.toNat + 1)
    (hrange : w.toNat + 2 ≤ s.memSize) (hwf : Memory.wf s.mem = true) :
    ∃ s1 s2 s3, exec (.store r .direct w) s = .next s1 ∧
      exec (.charOut r .direct w) s1 = .next s2 ∧ exec (.charOut r .direct w1) s2 = .next s3 ∧
      s3.output = s.output ++ [s.a.extractLsb 15 8, s.a.extractLsb 7 0] := by
  have hlow : w.toNat + 1 ≤ s.memSize := by omega
  have hhigh : w1.toNat + 1 ≤ s.memSize := by omega
  refine ⟨_, _, _, exec_store_direct r hrange, exec_charOut_direct r hlow,
    exec_charOut_direct r hhigh, ?_⟩
  simp [memRead1, hw1, readByte_memWrite2_lower _ _ _ hwf, readByte_memWrite2_higher _ _ _ hwf,
    lowerAddressByte_eq, higherAddressByte_eq]

/-- A byte read into the higher address of a word whose lower byte is 0 is loaded zero-extended (R35, D4; log 7). -/
theorem charIn_load (r : Reg) {w w1 : Word} {b : Byte} {rest : List Byte} {s : State}
    (hw1 : w1.toNat = w.toNat + 1) (hrange : w.toNat + 2 ≤ s.memSize)
    (hwf : Memory.wf s.mem = true) (hin : s.input = b :: rest)
    (hzero : readByte s w.toNat = 0x00) :
    ∃ s1 s2, exec (.charIn r .direct w1) s = .next s1 ∧ exec (.load r .direct w) s1 = .next s2 ∧
      s2.a = b.setWidth 16 := by
  have hhigh : w1.toNat + 1 ≤ s.memSize := by omega
  refine ⟨_, _, exec_charIn_read r hhigh hin, exec_load_direct r hrange, ?_⟩
  have hlowByte : readByte (memWrite1 w1.toNat b { s with input := rest }) w.toNat = 0x00 :=
    (readByte_memWrite1_other _ b (by omega)).trans hzero
  have hhighByte : readByte (memWrite1 w1.toNat b { s with input := rest }) (w.toNat + 1) = b :=
    hw1 ▸ readByte_memWrite1_same _ _ b hwf
  rw [setRegister_a_a, memRead2, hlowByte, hhighByte, wordOfMem_zero_lower]

/-- Settles O38, one sequence and then the other. -/
theorem byteOrderIsVisible : Obligations.ByteOrderIsVisible :=
  fun r _ _ _ _ _ hw1 hrange hwf =>
    ⟨store_charOut_charOut r hw1 hrange hwf, charIn_load r hw1 hrange hwf⟩

/-! ### The multiplexer -/

/-- Settles O13: Direct mode by the bounds of two bytes, the other modes by definition. -/
theorem sourceWordForms : Obligations.SourceWordForms :=
  fun _ _ => ⟨rfl, srcWord_direct, srcWord_direct_outOfRange, rfl, rfl⟩

/-- Settles O14: Direct mode by the bounds of one byte; the low byte is the operand modulo 256. -/
theorem sourceByteForms : Obligations.SourceByteForms :=
  fun w _ => ⟨⟨w.extractLsb 7 0, rfl, by simp⟩, srcByte_direct, srcByte_direct_outOfRange, rfl, rfl⟩

/-- Settles O15: Direct mode by the bounds of n bytes, the other modes by definition. -/
theorem destinationForms : Obligations.DestinationForms :=
  fun _ _ _ => ⟨rfl, dest_direct, dest_direct_outOfRange, rfl, rfl⟩

end Sys2Proof.MemoryProofs
end

section
/-! The decoder and the encoder undo each other, the loader reads an encoded program, and the register select reaches nothing but the specifier byte of a report (30_encoding.md R50 to R58). -/

namespace Sys2Proof.Machine

/-! ### The fields of a specifier byte (R51) -/

/-- The opcode is the top 5 bits. -/
theorem toNat_opcode_decodeFields (spec : Byte) (operand : Word) :
    (decodeFields spec operand).opcode.toNat = spec.toNat / 8 := by
  have hspec : spec.toNat < 256 := spec.isLt
  simp only [decodeFields, BitVec.extractLsb_toNat, Nat.shiftRight_eq_div_pow]
  omega

/-- The register select is the next bit. -/
theorem toNat_regsel_decodeFields (spec : Byte) (operand : Word) :
    (decodeFields spec operand).regsel.toNat = spec.toNat / 4 % 2 := by
  simp only [decodeFields, BitVec.extractLsb_toNat, Nat.shiftRight_eq_div_pow]

/-- The mode is the low 2 bits. -/
theorem toNat_mode_decodeFields (spec : Byte) (operand : Word) :
    (decodeFields spec operand).mode.toNat = spec.toNat % 4 := by
  simp only [decodeFields, BitVec.extractLsb_toNat, Nat.shiftRight_eq_div_pow]
  omega

/-! ### Round trips of the decoder and the encoder (R50 to R55) -/

open Laws.OpcodeMap in
/-- The instruction of an instruction's decoded record is that instruction: one law per constructor. -/
theorem ofIR_toIR (i : Instr) : Instr.ofIR i.toIR = i :=
  i.casesOn (motive := Statement) stop load store add sub
    unknown5 unknown6 unknown7 unknown8 unknown9 unknown10 unknown11 unknown12 unknown13
    unknown14 unknown15 unknown16 unknown17 unknown18 unknown19 unknown20 unknown21 unknown22
    unknown23 unknown24 unknown25 unknown26 charIn charOut unknown29 unknown30 unknown31

/-- An instruction is decoded from its own specifier byte and operand. -/
theorem decode_specifier_operand (i : Instr) : decode i.specifier i.operand = i :=
  (congrArg Instr.ofIR (decodeFields_specifier i.toIR)).trans (ofIR_toIR i)

/-- A decoded instruction has the specifier byte it was decoded from. -/
theorem specifier_decode (spec : Byte) (operand : Word) : (decode spec operand).specifier = spec :=
  (congrArg InstrReg.specifier (toIR_decode spec operand)).trans (specifier_decodeFields spec operand)

/-- A decoded instruction has the operand it was decoded from. -/
theorem operand_decode (spec : Byte) (operand : Word) : (decode spec operand).operand = operand :=
  operand_ofIR _

/-! ### The loader on encoded programs (R58) -/

/-- A deliverable instruction does not look like the sentinel: only STOP on A in Immediate mode does. -/
theorem specifier_ne_zero {i : Instr} (h : i.wf = true) : i.specifier ≠ 0x00 := by
  intro hzero
  obtain ⟨hop, hreg, hmode⟩ := i.specifier_eq_zero.1 hzero
  cases i with
  | stop r m w =>
    obtain rfl : r = .a := hreg
    obtain rfl : m = .immediate := hmode
    exact absurd h Bool.false_ne_true
  | _ => exact absurd hop (of_decide_eq_true rfl)

/-- The loader delivers an encoded instruction and goes on with the bytes after it. -/
theorem loadProgram_encode_append {i : Instr} (h : i.wf = true) (bytes : List Byte) :
    loadProgram (encode i ++ bytes) = i.toElem :: loadProgram bytes :=
  (loadProgram_instr (specifier_ne_zero h) _ _ bytes).trans (by
    rw [operandOfWire_bytes, Instr.toElem])

/-- The loader delivers an encoded program element by element and goes on with the bytes after it. -/
theorem loadProgram_flatMap_encode_append {is : List Instr} (h : ∀ i ∈ is, i.wf = true)
    (bytes : List Byte) :
    loadProgram (is.flatMap encode ++ bytes) = is.map Instr.toElem ++ loadProgram bytes := by
  induction is with
  | nil => rfl
  | cons i is ih =>
    obtain ⟨hi, his⟩ := List.forall_mem_cons.1 h
    rw [List.flatMap_cons, List.append_assoc, loadProgram_encode_append hi, ih his]
    rfl

/-! ### The register select (R57) -/

/-- The instruction of a decoded record with the register select left open. -/
def instrFor (ir : InstrReg) (r : Reg) : Instr :=
  (opcodeMap[ir.opcode.toNat]'(ir.opcode.isLt)) r (Mode.ofBits ir.mode) ir.operand

/-- Filled in with the record's own register select it is the record's instruction. -/
theorem ofIR_eq_instrFor (ir : InstrReg) : Instr.ofIR ir = instrFor ir (Reg.ofBits ir.regsel) := rfl

/-- Bit 2 of the specifier byte is the register select alone. -/
theorem instrFor_decodeFields_toggle (spec : Byte) (operand : Word) :
    instrFor (decodeFields (spec ^^^ 0x04) operand) = instrFor (decodeFields spec operand) := by
  have hfields : decodeFields (spec ^^^ 0x04) operand =
      { decodeFields spec operand with regsel := (decodeFields (spec ^^^ 0x04) operand).regsel } := by
    simp only [decodeFields, InstrReg.mk.injEq, true_and, and_true]
    revert spec
    decide
  exact (congrArg instrFor hfields).trans rfl

/-- The register select of the instructions `c r` reaches nothing but a report: they all take `s` to one state, or all raise one error there. -/
def RegselOnlyQuoted (c : Reg → Instr) (s : State) : Prop :=
  (∃ t, ∀ r, exec (c r) s = .next t) ∨ ∃ k, ∀ r, exec (c r) s = .next (raise k (c r) s)

/-- So it is over a source: the rejections raise, a value goes to an effect without the register select. -/
theorem withSource_regselOnlyQuoted {α : Type} {c : Reg → Instr} {s : State} (src : Source α)
    {effect : α → State} (h : ∀ r, exec (c r) s = .next (withSource (c r) src effect s)) :
    RegselOnlyQuoted c s := by
  cases src with
  | invalid => exact .inr ⟨_, h⟩
  | outOfRange => exact .inr ⟨_, h⟩
  | value v => exact .inl ⟨_, h⟩

theorem store_regselOnlyQuoted (m : Mode) (w : Word) (s : State) :
    RegselOnlyQuoted (fun r => .store r m w) s := by
  simp only [RegselOnlyQuoted, exec, execStore]
  cases dest m w 2 s with
  | operandField => exact .inl ⟨_, fun _ => rfl⟩
  | invalid => exact .inr ⟨_, fun _ => rfl⟩
  | outOfRange => exact .inr ⟨_, fun _ => rfl⟩
  | memAt addr => exact .inl ⟨_, fun _ => rfl⟩

theorem charIn_regselOnlyQuoted (m : Mode) (w : Word) (s : State) :
    RegselOnlyQuoted (fun r => .charIn r m w) s := by
  simp only [RegselOnlyQuoted, exec, execCharIn]
  cases dest m w 1 s with
  | operandField => exact .inr ⟨_, fun _ => rfl⟩
  | invalid => exact .inr ⟨_, fun _ => rfl⟩
  | outOfRange => exact .inr ⟨_, fun _ => rfl⟩
  | memAt addr => exact .inl ⟨_, fun _ => rfl⟩

/-- The register select of no instruction reaches anything but a report (R57). -/
theorem instrFor_regselOnlyQuoted (ir : InstrReg) (s : State) :
    RegselOnlyQuoted (instrFor ir) s := by
  obtain ⟨i, rfl⟩ : ∃ i : Instr, i.toIR = ir := ⟨_, toIR_ofIR ir⟩
  cases i with
  | stop => exact .inl ⟨_, fun _ => rfl⟩
  | load | add | sub => exact withSource_regselOnlyQuoted _ fun _ => rfl
  | charOut => exact withSource_regselOnlyQuoted _ fun _ => rfl
  | store r m w => exact store_regselOnlyQuoted _ w s
  | charIn r m w => exact charIn_regselOnlyQuoted _ w s
  | _ => exact .inr ⟨.unknownOpcode, fun _ => rfl⟩

/-- The same error raised by two instructions with one operand differs in the quoted specifier byte alone (R100, D27; log 14). -/
theorem raise_eq_but_specifier {i j : Instr} (h : j.operand = i.operand) (k : ErrorKind)
    (s : State) :
    raise k j s = { raise k i s with errs := (raise k j s).errs } ∧
      (raise k j s).errs.map (fun rep => (rep.kind, rep.operand)) =
        (raise k i s).errs.map (fun rep => (rep.kind, rep.operand)) := by
  constructor
  · unfold raise
    split
    · rfl
    · rfl
  · simp [reportOf, h]

end Sys2Proof.Machine
end

section
/-! The obligations of 30_encoding.md: the decoder and the encoder, the loader, the register select. -/

open Sys2Proof Sys2Proof.Machine

namespace Sys2Proof.EncodingProofs

/-! ### The loader -/

/-- Settles O6: the program is read off element by element (`loadProgram_flatMap_encode_append`), then the sentinel or nothing. -/
theorem loaderDeliversEncodedProgram : Obligations.LoaderDeliversEncodedProgram := by
  intro is rest h
  constructor
  · rw [loadProgram_flatMap_encode_append h, loadProgram_zero]
  · simpa [loadProgram] using loadProgram_flatMap_encode_append h []

/-- Settles O7, from the cases of the loader's loop. -/
theorem loaderReadsOneElement : Obligations.LoaderReadsOneElement :=
  ⟨rfl, loadProgram_zero, fun _ byte1 byte2 rest h =>
    ⟨loadProgram_truncated h (by simp), loadProgram_truncated h (by simp),
      loadProgram_instr h byte1 byte2 rest⟩⟩

/-! ### The decoder and the encoder -/

/-- Settles O3: the operand's two bytes are put together again, then `decode_specifier_operand`. -/
theorem decodeEncodeRoundTrip : Obligations.DecodeEncodeRoundTrip := by
  intro i rest
  have hdecode : decode i.specifier (operandOfWire (wireFirst i.operand) (wireSecond i.operand)) = i := by
    rw [operandOfWire_bytes, decode_specifier_operand]
  exact congrArg (fun j => Except.ok (j, rest)) hdecode

/-- Settles O4: the instruction is the decoded one, which keeps the specifier byte and the operand. -/
theorem encodeDecodeRoundTrip : Obligations.EncodeDecodeRoundTrip := by
  intro spec byte1 byte2 rest
  refine ⟨decode spec (operandOfWire byte1 byte2), rfl, ?_⟩
  rw [encode, specifier_decode, operand_decode, wireFirst_operandOfWire, wireSecond_operandOfWire]

/-- Settles O5: the seven recognized opcodes among the 32 values, and the opcode is the byte's top five bits. -/
theorem unrecognizedOpcodeRange : Obligations.UnrecognizedOpcodeRange := by
  intro spec operand
  have hrange : ∀ op : BitVec 5, (!Config.recognizedOpcodes.contains op) = true ↔
      (5 ≤ op.toNat ∧ op.toNat ≤ 26) ∨ 29 ≤ op.toNat := by decide
  rw [← toNat_opcode_decodeFields spec operand, Instr.isUnknown, decode, opcode_ofIR]
  exact hrange _

/-- Settles O1, field by field; the last clause is division with remainder. -/
theorem decodeSplitsSpecifierByte : Obligations.DecodeSplitsSpecifierByte := by
  intro spec operand
  have hop := toNat_opcode_decodeFields spec operand
  have hregsel := toNat_regsel_decodeFields spec operand
  have hmode := toNat_mode_decodeFields spec operand
  exact ⟨hop, hregsel, hmode, rfl, by omega⟩

/-- Settles O2: the decoder evaluated on each word. -/
theorem writtenWordsDecode : Obligations.WrittenWordsDecode :=
  ⟨rfl, rfl, rfl, rfl, rfl, rfl, rfl, rfl, rfl, rfl, rfl⟩

/-! ### The register select -/

/-- Settles O34: the two instructions differ in the register select alone, which only a report quotes (`instrFor_regselOnlyQuoted`). -/
theorem registerSelectIsIgnored : Obligations.RegisterSelectIsIgnored := by
  intro spec operand s t u ht hu
  have hoperand : (decode (spec ^^^ 0x04) operand).operand = (decode spec operand).operand := by
    rw [operand_decode, operand_decode]
  simp only [decode, ofIR_eq_instrFor, instrFor_decodeFields_toggle] at ht hu hoperand
  obtain ⟨v, hv⟩ | ⟨k, hk⟩ := instrFor_regselOnlyQuoted (decodeFields spec operand) s
  · obtain rfl := Host.Outcome.next.inj (ht.symm.trans (hv _))
    obtain rfl := Host.Outcome.next.inj (hu.symm.trans (hv _))
    exact ⟨rfl, rfl⟩
  · obtain rfl := Host.Outcome.next.inj (ht.symm.trans (hk _))
    obtain rfl := Host.Outcome.next.inj (hu.symm.trans (hk _))
    exact raise_eq_but_specifier hoperand k s

end Sys2Proof.EncodingProofs
end

section
/-! What an unrecognized opcode does, said once for all 25, and the step that fetches an instruction (40_stop_and_unknown.md R71, 45_fetch_loop.md R90). -/

namespace Sys2Proof.Machine

/-- An unrecognized opcode makes its report, the whole effect: the error is not fatal (R71, R101). -/
theorem exec_unknown {i : Instr} (h : i.isUnknown = true) (s : State) :
    exec i s = .next (logError (reportOf .unknownOpcode i) s) := by
  cases i with
  | stop | load | store | add | sub | charIn | charOut => exact absurd h Bool.false_ne_true
  | _ => rfl

/-- A machine about to fetch an instruction decodes it into `IR` and executes it (R90, R91). -/
theorem step_of_fetch {s : State} (hs : AtFetch s) {spec : Byte} {operand : Word}
    (hnext : s.prog[s.ip]? = some (.instr spec operand)) :
    step s = exec (decode spec operand) (takeInstr spec operand s) := by
  obtain ⟨hrun, hwait⟩ := hs
  simp [step, hrun, hwait, fetchDecodeExecute, fetch, hnext]

end Sys2Proof.Machine
end

section
/-! The obligations of 40_stop_and_unknown.md: STOP and the unrecognized opcodes. -/

open Sys2Proof Sys2Proof.Machine

namespace Sys2Proof.StopUnknownProofs

/-- Settles O16: STOP is `halt` with cause STOP, whatever its fields. -/
theorem stopHalts : Obligations.StopHalts := fun _ _ _ _ => rfl

/-- Settles O17: each constructor of the list is of an unrecognized opcode and keeps its operand, so `exec_unknown` gives its effect; the fetched specifier byte is the one the decoded instruction reports. -/
theorem unknownOpcodeIsReportedAndSkipped : Obligations.UnknownOpcodeIsReportedAndSkipped := by
  intro c hc r m w s
  obtain ⟨hunknown, hoperand⟩ : (c r m w).isUnknown = true ∧ (c r m w).operand = w :=
    Prod.mk.inj ((List.map_eq_replicate_iff (b := (true, w))
      (f := fun c => ((c r m w).isUnknown, (c r m w).operand))).1 rfl c hc)
  refine ⟨?_, fun spec hdecode hrun hwait hnext => ?_⟩
  · rw [exec_unknown hunknown, logError, reportOf, hoperand]
  · have hspec : (c r m w).specifier = spec := hdecode ▸ specifier_decode spec w
    rw [step_of_fetch ⟨hrun, hwait⟩ hnext, hdecode, exec_unknown hunknown, logError, reportOf,
      hspec, hoperand]
    rfl

end Sys2Proof.StopUnknownProofs
end

section
/-! What LOAD and STORE do in Immediate mode (Direct mode in range is `exec_load_direct`, `exec_store_direct`), and the write of A with its flags written out. -/

namespace Sys2Proof.Machine

/-- LOAD puts the operand into A (R75). -/
theorem exec_load_immediate (r : Reg) (w : Word) (s : State) :
    exec (.load r .immediate w) s = .next (setRegister .a w s) := rfl

/-- STORE puts A into the operand field of `IR` (R76; D21, log 18). -/
theorem exec_store_immediate (r : Reg) (w : Word) (s : State) :
    exec (.store r .immediate w) s = .next (setIrOperand s.a s) := rfl

/-- The one write of the accumulator, its flags as facts of the value (R14). -/
theorem setAccumulator_eq (v : Word) (s : State) : setRegister .a v s =
    { s with a := v, flagsA := ⟨decide (v = 0), decide (32768 ≤ v.toNat)⟩ } := by
  rw [← flagsOf_eq]; rfl

end Sys2Proof.Machine
end

section
/-! The obligations of 41_load_store.md: LOAD, STORE and the round trip through memory. -/

open Sys2Proof Sys2Proof.Machine

namespace Sys2Proof.LoadStoreProofs

/-- Settles O36: the word STORE writes is read back at its address, so LOAD Direct writes A as LOAD Immediate did, flags and all; the operand field of `IR` is no memory. -/
theorem loadStoreRoundTrip : Obligations.LoadStoreRoundTrip := by
  intro r v addr s hrange hwf
  have hback : memRead2 addr.toNat (memWrite2 addr.toNat v (setRegister .a v s)) = v :=
    memRead2_memWrite2 _ _ _ hwf
  exact ⟨_, _, _, _, exec_load_immediate r v s, exec_store_direct r hrange, hback,
    exec_load_direct r hrange, hback, congrArg flagsOf hback, exec_store_immediate r addr _, rfl⟩

/-- Settles O18: both forms are the one write of A, of the operand or of the word in memory. -/
theorem loadCompletes : Obligations.LoadCompletes := by
  refine fun r w s => ⟨?_, fun hrange v hv => ?_⟩
  · rw [exec_load_immediate, setAccumulator_eq]
  · have hword : memRead2 w.toNat s = v := hv.symm
    rw [exec_load_direct r hrange, hword, setAccumulator_eq]

/-- Settles O19: Immediate mode by definition, Direct mode by the laws of a word written to memory. -/
theorem storeCompletes : Obligations.StoreCompletes := by
  refine fun r w s => ⟨exec_store_immediate r w s, fun hrange hwf =>
    ⟨memWrite2 w.toNat s.a s, exec_store_direct r hrange, ?_, ?_,
      fun k hk hk1 => readByte_memWrite2_other s s.a hk hk1, rfl⟩⟩
  · rw [readByte_memWrite2_lower s w.toNat s.a hwf, lowerAddressByte_eq]
  · rw [readByte_memWrite2_higher s w.toNat s.a hwf, higherAddressByte_eq]

end Sys2Proof.LoadStoreProofs
end

section
/-! ADD and SUB on a source that is a value, in either legal mode, and the arithmetic modulo 65536 that relates them (42_add_sub.md R80 to R82). -/

namespace Sys2Proof.Machine

/-! ### The sum and the difference of words -/

/-- A sum modulo 65536 is the word ADD computes (R80). -/
theorem addWords_eq {a d v : Word} (hv : v.toNat = (a.toNat + d.toNat) % 65536) :
    addWords a d = v := BitVec.eq_of_toNat_eq ((toNat_addWords a d).trans hv.symm)

/-- A difference modulo 65536 is the word SUB computes (R81). -/
theorem subWords_eq {a d v : Word} (hv : v.toNat = (a.toNat + 65536 - d.toNat) % 65536) :
    subWords a d = v := BitVec.eq_of_toNat_eq ((toNat_subWords a d).trans hv.symm)

theorem subWords_addWords_cancel (a b : Word) : subWords (addWords a b) b = a := by
  apply subWords_eq
  rw [toNat_addWords]
  omega

/-- To subtract a word is to add its negative modulo 65536 (R82). -/
theorem addWords_negative {b b' : Word} (hb : b'.toNat = (65536 - b.toNat) % 65536) (a : Word) :
    addWords a b' = subWords a b := by
  apply addWords_eq
  rw [toNat_subWords, hb]
  omega

/-! ### The instructions -/

variable {m : Mode} {w d : Word} {s : State}

/-- ADD whose source is a value writes the sum to A (R80). -/
theorem exec_add_value (r : Reg) (hsrc : srcWord m w s = .value d) :
    exec (.add r m w) s = .next (setRegister .a (addWords s.a d) s) := by
  simp [exec, execAdd, hsrc, withSource, readReg]

/-- SUB whose source is a value writes the difference to A (R81). -/
theorem exec_sub_value (r : Reg) (hsrc : srcWord m w s = .value d) :
    exec (.sub r m w) s = .next (setRegister .a (subWords s.a d) s) := by
  simp [exec, execSub, hsrc, withSource, readReg]

theorem srcWord_immediate (w : Word) (s : State) : srcWord .immediate w s = .value w := rfl

/-- The source word in Direct mode, its bytes written out: the lower address holds the high byte (R35, D4; log 7). -/
theorem srcWord_direct_bytes (hrange : w.toNat + 2 ≤ s.memSize)
    (hd : d = readByte s w.toNat ++ readByte s (w.toNat + 1)) : srcWord .direct w s = .value d :=
  (srcWord_direct hrange).trans (congrArg Source.value hd.symm)

end Sys2Proof.Machine
end

section
/-! The obligations of 42_add_sub.md: ADD, SUB and the laws between them. -/

open Sys2Proof Sys2Proof.Machine

namespace Sys2Proof.AddSubProofs

/-- Settles O37: the difference undoes the sum in A, and subtracting `b` is adding its negative, so both instructions write the same word. -/
theorem addAndSubAreInverse : Obligations.AddAndSubAreInverse := by
  refine fun r b b' s hb => ⟨⟨_, _, exec_add_value r (srcWord_immediate b s),
    exec_sub_value r (srcWord_immediate b _), subWords_addWords_cancel s.a b⟩, ?_⟩
  rw [exec_sub_value r (srcWord_immediate b s), exec_add_value r (srcWord_immediate b' s),
    addWords_negative hb]

/-- Settles O20: both forms write A with the sum, of the operand or of the word in memory. -/
theorem addCompletes : Obligations.AddCompletes := by
  refine fun r w s => ⟨fun v hv => ?_, fun hrange d v hd hv => ?_⟩
  · rw [exec_add_value r (srcWord_immediate w s), addWords_eq hv, setAccumulator_eq]
  · rw [exec_add_value r (srcWord_direct_bytes hrange hd), addWords_eq hv, setAccumulator_eq]

/-- Settles O21: both forms write A with the difference, of the operand or of the word in memory. -/
theorem subCompletes : Obligations.SubCompletes := by
  refine fun r w s => ⟨fun v hv => ?_, fun hrange d v hd hv => ?_⟩
  · rw [exec_sub_value r (srcWord_immediate w s), subWords_eq hv, setAccumulator_eq]
  · rw [exec_sub_value r (srcWord_direct_bytes hrange hd), subWords_eq hv, setAccumulator_eq]

end Sys2Proof.AddSubProofs
end

section
/-! What CHAR_OUT does in Immediate mode (Direct mode in range is `exec_charOut_direct`, CHAR_IN there `exec_charIn_read`). -/

namespace Sys2Proof.Machine

/-- The low byte of a word is the word modulo 256 (R42). -/
theorem lowByte_eq_ofNat_mod (w : Word) :
    w.extractLsb 7 0 = BitVec.ofNat 8 (w.toNat % 256) := by
  apply BitVec.eq_of_toNat_eq
  simp

/-- CHAR_OUT writes the low byte of the operand to the output (R86). -/
theorem exec_charOut_immediate (r : Reg) (w : Word) (s : State) :
    exec (.charOut r .immediate w) s = .next (outWrite (w.extractLsb 7 0) s) := rfl

end Sys2Proof.Machine
end

section
/-! The obligations of 43_char_io.md: CHAR_IN and CHAR_OUT where they complete. -/

open Sys2Proof Sys2Proof.Machine

namespace Sys2Proof.CharIoProofs

/-- Settles O22: the byte taken from the input is written to memory (`exec_charIn_read`), and a write to canonical memory is read back at its address alone. -/
theorem charInCompletes : Obligations.CharInCompletes :=
  fun r w b rest s hrange hin hwf =>
    ⟨memWrite1 w.toNat b { s with input := rest }, exec_charIn_read r hrange hin,
      readByte_memWrite1_same _ _ b hwf, fun _ hk => readByte_memWrite1_other _ b hk, rfl⟩

/-- Settles O24: both forms are the one append to the output, of the operand's low byte or of the byte in memory. -/
theorem charOutCompletes : Obligations.CharOutCompletes := by
  refine fun r w s => ⟨?_, fun hrange => exec_charOut_direct r hrange⟩
  rw [exec_charOut_immediate, lowByte_eq_ofNat_mod]
  rfl

end Sys2Proof.CharIoProofs
end

section
/-! The fetch loop of 45_fetch_loop.md: the step in each of its situations (R90 to R93), how an instruction leaves the loop, and the runs of the machine step by step (R94). -/

namespace Sys2Proof.Machine

/-! ### The fetch and the step in each situation -/

section
variable {s t : State}

/-- With every element taken, the fetch answers the end of the stream (R91; log 13). -/
theorem fetch_of_end (h : s.prog.length ≤ s.ip) : fetch s = .done .eof := by
  rw [fetch, List.getElem?_eq_none h]

/-- At the sentinel the fetch answers it (R91). -/
theorem fetch_of_sentinel (h : s.prog[s.ip]? = some .sentinel) : fetch s = .done .sentinel := by
  rw [fetch, h]

/-- At an instruction the fetch delivers it (R91). -/
theorem fetch_of_instr {spec : Byte} {operand : Word}
    (h : s.prog[s.ip]? = some (.instr spec operand)) : fetch s = .instr spec operand := by
  rw [fetch, h]

/-- A HALTED machine has no step (R93; log 4). -/
theorem step_of_halted (h : Ended s) : step s = .fault .halted := by
  rw [step, h]

/-- Where the fetch answers End, the step halts the loop with its cause, the whole effect (R90, R91). -/
theorem step_of_fetch_done (hs : AtFetch s) {c : HaltCause} (h : fetch s = .done c) :
    step s = .next (halt c s) := by
  obtain ⟨hrun, hwait⟩ := hs
  simp [step, hrun, hwait, fetchDecodeExecute, h]

/-- An instruction always has a next state (R92). -/
theorem exec_answers_next (i : Instr) (s : State) : ∃ t, exec i s = .next t :=
  (exec_effect i s).imp fun _ h => h.1

/-- A machine about to fetch has a step, whatever the fetch answers. -/
theorem exists_step_of_atFetch (hs : AtFetch s) : ∃ t, step s = .next t := by
  obtain ⟨-, hfetch⟩ | ⟨-, hfetch⟩ | ⟨spec, operand, hnext, -⟩ := fetch_cases s
  · exact ⟨_, step_of_fetch_done hs hfetch⟩
  · exact ⟨_, step_of_fetch_done hs hfetch⟩
  · rw [step_of_fetch hs hnext]; exact exec_answers_next _ _

/-- So has a machine that holds an instruction, once a byte is there. -/
theorem exists_step_of_held (hrun : s.run = .running) (hwait : s.waiting = true)
    (hin : s.input ≠ []) : ∃ t, step s = .next t := by
  rw [step_of_held hrun hwait hin]; exact exec_answers_next _ _

/-- A machine is HALTED, stuck, holding an instruction with a byte there, or about to fetch. -/
theorem state_cases (s : State) :
    Ended s ∨ Stuck s ∨ (s.run = .running ∧ s.waiting = true ∧ s.input ≠ []) ∨ AtFetch s := by
  cases hrun : s.run with
  | halted => exact .inl hrun
  | running =>
    cases hwait : s.waiting with
    | false => exact .inr (.inr (.inr ⟨hrun, hwait⟩))
    | true =>
      by_cases hin : s.input = []
      · exact .inr (.inl ⟨hrun, hwait, hin⟩)
      · exact .inr (.inr (.inl ⟨rfl, rfl, hin⟩))

/-! ### How an instruction leaves the loop -/

namespace Effect

variable {i : Instr}

/-- A hold is begun by CHAR_IN on an empty input alone, and is then the whole effect (R20, D31; log 5). -/
theorem waiting_cases (h : Effect i s t) : t.waiting = s.waiting ∨
    (i.opcode = Config.opcCharIn ∧ s.input = [] ∧ t = holdForInput s) := by
  cases h with
  | hold hop _ _ hin => exact .inr ⟨hop, hin, rfl⟩
  | error k => exact .inl (raise_waiting s k i)
  | _ => exact .inl rfl

/-- An instruction executed with nothing held ends the run, leaves the machine stuck, or brings it to the next fetch. -/
theorem ended_or_stuck_or_atFetch (h : Effect i s t) (hwait : s.waiting = false) :
    Ended t ∨ Stuck t ∨ AtFetch t := by
  cases hrun : t.run with
  | halted => exact .inl hrun
  | running =>
    obtain hkept | ⟨-, hin, rfl⟩ := h.waiting_cases
    · exact .inr (.inr ⟨hrun, hkept.trans hwait⟩)
    · exact .inr (.inl ⟨hrun, rfl, hin⟩)

/-- An instruction halts a RUNNING machine in two ways: STOP, and an OutOfRangeAddress it reports (R93, D9). -/
theorem halts_in_two_ways (h : Effect i s t) (hrun : s.run = .running) (hhalted : t.run = .halted)
    (hir : s.ir.opcode = i.opcode) :
    (t.haltCause = .stop ∧ t.ir.opcode = Config.opcStop ∧ t.errs = s.errs) ∨
    (t.haltCause = .outOfRange ∧
      ∃ rep, t.errs = s.errs ++ [rep] ∧ rep.kind = .outOfRangeAddress) := by
  obtain ⟨hop, rfl⟩ | ⟨-, k, -, rfl⟩ | ⟨hkept, -, -⟩ := h.control_cases
  · exact .inl ⟨rfl, hir.trans hop, rfl⟩
  · obtain rfl : k = .outOfRangeAddress := by
      by_contra hk
      rw [raise_nonfatal hk] at hhalted
      exact nomatch hhalted.symm.trans hrun
    exact .inr ⟨rfl, _, raise_errs s _ i, rfl⟩
  · exact nomatch hhalted.symm.trans (hkept.trans hrun)

end Effect

/-! ### Runs -/

theorem run_zero (s : State) : core.run 0 s = .next s := rfl

/-- A run of one step more, by its first step, in any core. -/
theorem coreRun_succ_of_step {M : Host.Core} {s t : M.State} (h : M.step s = .next t) (k : Nat) :
    M.run (k + 1) s = M.run k t := by
  rw [Host.Core.run, h]

theorem run_succ_of_step (h : step s = .next t) (k : Nat) : core.run (k + 1) s = core.run k t :=
  coreRun_succ_of_step (M := core) h k

/-- Within `n` steps from `s` the machine has halted or is stuck in a CHAR_IN (R94, R95). -/
def EndsOrSticksWithin (n : Nat) (s : State) : Prop :=
  ∃ k t, k ≤ n ∧ core.run k s = .next t ∧ (Ended t ∨ Stuck t)

theorem EndsOrSticksWithin.of_now (h : Ended s ∨ Stuck s) (n : Nat) : EndsOrSticksWithin n s :=
  ⟨0, s, Nat.zero_le n, run_zero s, h⟩

theorem EndsOrSticksWithin.of_step {n : Nat} (hstep : step s = .next t)
    (h : EndsOrSticksWithin n t) : EndsOrSticksWithin (n + 1) s := by
  obtain ⟨k, u, hk, hrun, hend⟩ := h
  exact ⟨k + 1, u, Nat.succ_le_succ hk, (run_succ_of_step hstep k).trans hrun, hend⟩

end

/-- From a fetch the run ends within the instructions left and one step more: each step that neither ends nor sticks counts one element of the stream (R94). -/
theorem endsOrSticksWithin_of_atFetch (s : State) (hs : AtFetch s) :
    EndsOrSticksWithin (s.prog.length - s.ip + 1) s := by
  obtain ⟨t, hstep⟩ := exists_step_of_atFetch hs
  obtain ⟨-, -, rfl⟩ | ⟨-, -, rfl⟩ | ⟨-, spec, operand, hnext, he⟩ | ⟨-, hwait, -, -⟩ :=
    step_cases hstep
  · exact .of_step hstep (.of_now (.inl rfl) _)
  · exact .of_step hstep (.of_now (.inl rfl) _)
  · refine .of_step hstep ?_
    obtain hend | hstuck | ht := he.ended_or_stuck_or_atFetch hs.2
    · exact .of_now (.inl hend) _
    · exact .of_now (.inr hstuck) _
    · obtain ⟨-, -, -, hprog, hip⟩ := he.constants
      have hlt : s.ip < s.prog.length := (List.getElem?_eq_some_iff.1 hnext).1
      have hleft : s.prog.length - s.ip = t.prog.length - t.ip + 1 := by
        rw [hprog, hip]; simp only [takeInstr]; omega
      rw [hleft]
      exact endsOrSticksWithin_of_atFetch t ht
  · exact nomatch hwait.symm.trans hs.2
termination_by s.prog.length - s.ip

/-! ### A program, instruction by instruction -/

section
variable {s t : State} {i : Instr} {is : List Instr}

/-- The instruction at the front of what is left of the stream is the one the step executes (R90, R91). -/
theorem step_of_drop_eq_toElem_cons {rest : List StreamElem} (hs : AtFetch s)
    (hleft : s.prog.drop s.ip = i.toElem :: rest) :
    step s = exec i (takeInstr i.specifier i.operand s) := by
  have hnext : s.prog[s.ip]? = some (.instr i.specifier i.operand) := by
    rw [← List.head?_drop, hleft]; rfl
  rw [step_of_fetch hs hnext, decode_specifier_operand]

/-- An instruction executed leaves the rest of the stream to fetch. -/
theorem drop_of_exec_takeInstr {e : StreamElem} {rest : List StreamElem} {spec : Byte} {operand : Word}
    (hleft : s.prog.drop s.ip = e :: rest) (h : exec i (takeInstr spec operand s) = .next t) :
    t.prog.drop t.ip = rest := by
  obtain ⟨-, -, -, hprog, hip⟩ := (effect_of_exec h).constants
  rw [hprog, hip]
  exact List.tail_drop.symm.trans (congrArg List.tail hleft)

theorem runInstrs_cons_of_exec (hs : AtFetch s)
    (h : exec i (takeInstr i.specifier i.operand s) = .next t) :
    runInstrs (i :: is) s = runInstrs is t := by
  rw [runInstrs, if_pos hs, h]

theorem runInstrs_of_not_atFetch (hs : ¬ AtFetch s) : runInstrs (i :: is) s = s := by
  rw [runInstrs, if_neg hs]

/-- A machine with `is` and then the sentinel left to fetch runs as `is` executed one by one, and halts at the sentinel if it comes to it: one step for each instruction executed (R90, R91, R94). -/
theorem run_eq_runInstrs (is : List Instr) {rest : List StreamElem} (s : State)
    (hleft : s.prog.drop s.ip = is.map Instr.toElem ++ .sentinel :: rest) :
    ∃ k, k ≤ is.length ∧ core.run k s = .next (runInstrs is s) ∧
      (AtFetch (runInstrs is s) →
        step (runInstrs is s) = .next (halt .sentinel (runInstrs is s))) := by
  induction is generalizing s with
  | nil =>
    have hnext : s.prog[s.ip]? = some .sentinel := by rw [← List.head?_drop, hleft]; rfl
    exact ⟨0, Nat.le_refl 0, run_zero s, fun hs => step_of_fetch_done hs (fetch_of_sentinel hnext)⟩
  | cons i is ih =>
    by_cases hs : AtFetch s
    · obtain ⟨t, hexec⟩ := exec_answers_next i (takeInstr i.specifier i.operand s)
      have hstep : step s = .next t := (step_of_drop_eq_toElem_cons hs hleft).trans hexec
      obtain ⟨k, hk, hrun, hsentinel⟩ := ih t (drop_of_exec_takeInstr hleft hexec)
      rw [runInstrs_cons_of_exec hs hexec]
      exact ⟨k + 1, Nat.succ_le_succ hk, (run_succ_of_step hstep k).trans hrun, hsentinel⟩
    · rw [runInstrs_of_not_atFetch hs]
      exact ⟨0, Nat.zero_le _, run_zero s, fun h => absurd h hs⟩

end

end Sys2Proof.Machine
end

section
/-! The obligations of 45_fetch_loop.md: the fetch, the step, the ways a run ends, a loaded program. -/

open Sys2Proof Sys2Proof.Machine

namespace Sys2Proof.FetchLoopProofs

/-! ### The dispatch and the stops -/

/-- Settles O33: `exec` has one of eight effects, of which the hold alone begins to wait. -/
theorem everyInstructionAnswersANextState : Obligations.EveryInstructionAnswersANextState := by
  intro i s
  obtain ⟨t, hexec, he⟩ := exec_effect i s
  exact ⟨t, hexec, he.waiting_cases.imp_right fun ⟨hop, hin, _⟩ => ⟨hop, hin⟩⟩

/-- Settles O42: a step that halts is one at the end of the program, or executes, with itself in `IR`, an instruction that halts (`Effect.halts_in_two_ways`). -/
theorem haltedIsAbsorbingAndEnteredInFourWays :
    Obligations.HaltedIsAbsorbingAndEnteredInFourWays := by
  refine fun s => ⟨step_of_halted, fun t hrun hstep hhalted => ?_⟩
  obtain ⟨-, hnext, rfl⟩ | ⟨-, hnext, rfl⟩ | ⟨-, spec, operand, -, he⟩ | ⟨-, -, -, he⟩ :=
    step_cases hstep
  · exact .inr (.inr (.inl ⟨rfl, List.getElem?_eq_none_iff.1 hnext, rfl⟩))
  · exact .inr (.inl ⟨rfl, hnext, rfl⟩)
  · exact (he.halts_in_two_ways hrun hhalted (opcode_ofIR _).symm).imp_right (.inr ∘ .inr)
  · exact (he.halts_in_two_ways hrun hhalted (opcode_ofIR _).symm).imp_right (.inr ∘ .inr)

/-- Settles O44: the four situations of a machine, of which two have a step. -/
theorem stepStopsOnlyWhenHaltedOrStuck : Obligations.StepStopsOnlyWhenHaltedOrStuck := by
  intro s
  obtain hend | hstuck | ⟨hrun, hwait, hin⟩ | hs := state_cases s
  · exact .inr (.inl ⟨hend, step_of_halted hend⟩)
  · exact .inr (.inr ⟨hstuck, step_of_stuck hstuck⟩)
  · exact .inl (exists_step_of_held hrun hwait hin)
  · exact .inl (exists_step_of_atFetch hs)

/-! ### Runs -/

/-- Settles O51: from a fetch by the count of the elements left (`endsOrSticksWithin_of_atFetch`); a held instruction takes its one step first and leaves the count alone. -/
theorem everyRunEndsOrIsStuck : Obligations.EveryRunEndsOrIsStuck := by
  intro s
  change EndsOrSticksWithin (s.prog.length - s.ip + 1 + if s.waiting = true then 1 else 0) s
  obtain hend | hstuck | ⟨hrun, hwait, hin⟩ | hs := state_cases s
  · exact .of_now (.inl hend) _
  · exact .of_now (.inr hstuck) _
  · rw [if_pos hwait]
    obtain ⟨t, hexec, he⟩ := exec_effect (Instr.ofIR s.ir) (endHold s)
    refine .of_step ((step_of_held hrun hwait hin).trans hexec) ?_
    obtain hend | hstuck | ht := he.ended_or_stuck_or_atFetch rfl
    · exact .of_now (.inl hend) _
    · exact .of_now (.inr hstuck) _
    · obtain ⟨-, -, -, hprog, hip⟩ := he.constants
      have hleft := endsOrSticksWithin_of_atFetch t ht
      rwa [hprog, hip] at hleft
  · rw [if_neg (by simp [hs.2])]
    exact endsOrSticksWithin_of_atFetch s hs

/-- Settles O52: the loader delivers the instructions and the sentinel, and `run_eq_runInstrs` runs them. -/
theorem loadedProgramRunsInOrder : Obligations.LoadedProgramRunsInOrder := by
  intro n is rest input hwf start
  refine run_eq_runInstrs (rest := []) is start ?_
  simp only [start, resetWith_prog, resetWith_ip, List.drop_zero]
  rw [loadProgram_flatMap_encode_append hwf, loadProgram_zero]

/-! ### The fetch and the step -/

/-- Settles O39, answer by answer. -/
theorem fetchTransaction : Obligations.FetchTransaction :=
  fun _ => ⟨fun hend => fetch_of_end hend.ge, fetch_of_sentinel, fun _ _ hnext =>
    ⟨fetch_of_instr hnext, rfl⟩⟩

/-- Settles O40: the step of a fetch, and the operand's two bytes put together again. -/
theorem stepRunsDecodedInstruction : Obligations.StepRunsDecodedInstruction := by
  refine fun s spec operand rest hrun hwait hnext => ⟨step_of_fetch ⟨hrun, hwait⟩ hnext, ?_⟩
  rw [decodeBytes, operandOfWire_bytes]

/-- Settles O41: the two answers of the fetch that halt the loop. -/
theorem stepHaltsAtEndOfProgram : Obligations.StepHaltsAtEndOfProgram :=
  fun _ hrun hwait =>
    ⟨fun hnext => step_of_fetch_done ⟨hrun, hwait⟩ (fetch_of_sentinel hnext),
      fun hend => step_of_fetch_done ⟨hrun, hwait⟩ (fetch_of_end hend.ge)⟩

/-- Settles O54: the element placed stands where the fetch looks (`placeNext_fetched`), and the decoder reads the same instruction from it. -/
theorem placedInstructionRunsNext : Obligations.PlacedInstructionRunsNext := by
  intro s w
  have hstep := step_of_fetch (s := s.withFetchWord 24 w) ⟨rfl, rfl⟩
    (placeNext_fetched (tableElem 24 w) s)
  refine ⟨_, rfl, hstep.trans ?_⟩
  rw [toIR_decode, takeInstr]

end Sys2Proof.FetchLoopProofs
end

section
/-! The errors of 60_exceptions.md: the one operation that reports them, and where an instruction raises InvalidAddressingMode (R102) and OutOfRangeAddress (R103). -/

namespace Sys2Proof.Machine

/-- `raise` as the whole next state: the report, and for the fatal kind alone the halt (R100 to R103). -/
theorem raise_eq (k : ErrorKind) (i : Instr) (s : State) : raise k i s = { s with
    errs := s.errs ++ [reportOf k i]
    run := if k = .outOfRangeAddress then .halted else s.run
    haltCause := if k = .outOfRangeAddress then .outOfRange else s.haltCause } := by
  cases k with
  | unknownOpcode | invalidAddressingMode | outOfRangeAddress => rfl

/-- Modes 2 and 3 are admitted by no instruction that uses its operand (R102, D8). -/
theorem rejectsMode_unnamed {m : Mode} (h : m = .mode2 ∨ m = .mode3) (op : BitVec 5) :
    rejectsMode op m.bits = true := by
  obtain rfl | rfl := h
  · rfl
  · rfl

/-- CHAR_IN admits Direct mode alone (R85, R102). -/
theorem rejectsMode_charIn {m : Mode} (h : m ≠ .direct) :
    rejectsMode Config.opcCharIn m.bits = true := by
  cases m with
  | direct => exact absurd rfl h
  | immediate | mode2 | mode3 => rfl

/-- A mode its instruction does not admit is an InvalidAddressingMode, the whole effect (R102, R106). -/
theorem exec_of_rejectsMode {i : Instr} {n : Nat} (hw : accessWidth i.opcode = some n)
    (hm : rejectsMode i.opcode i.mode.bits = true) (s : State) :
    exec i s = .next (raise .invalidAddressingMode i s) := by
  cases i with
  | load r m w | store r m w | add r m w | sub r m w | charOut r m w =>
    cases m with
    | mode2 | mode3 => rfl
    | immediate | direct => exact absurd hm Bool.false_ne_true
  | charIn r m w =>
    cases m with
    | immediate | mode2 | mode3 => rfl
    | direct => exact absurd hm Bool.false_ne_true
  | _ => exact absurd hw nofun

/-- A Direct access that does not lie below N as a whole is an OutOfRangeAddress, the whole effect (R103, R106; D7). -/
theorem exec_of_outOfRange {i : Instr} {n : Nat} {s : State} (hw : accessWidth i.opcode = some n)
    (hm : i.mode = .direct) (ha : s.memSize < i.operand.toNat + n) :
    exec i s = .next (raise .outOfRangeAddress i s) := by
  cases i with
  | load r m w | add r m w | sub r m w =>
    obtain rfl : m = .direct := hm
    obtain rfl : 2 = n := Option.some.inj hw
    have hsrc : srcWord .direct w s = .outOfRange := srcWord_direct_outOfRange ha
    simp [exec, execLoad, execAdd, execSub, hsrc, withSource]
  | charOut r m w =>
    obtain rfl : m = .direct := hm
    obtain rfl : 1 = n := Option.some.inj hw
    have hsrc : srcByte .direct w s = .outOfRange := srcByte_direct_outOfRange ha
    simp [exec, execCharOut, hsrc, withSource]
  | store r m w =>
    obtain rfl : m = .direct := hm
    obtain rfl : 2 = n := Option.some.inj hw
    have hdest : dest .direct w 2 s = .outOfRange := dest_direct_outOfRange ha
    simp [exec, execStore, hdest]
  | charIn r m w =>
    obtain rfl : m = .direct := hm
    obtain rfl : 1 = n := Option.some.inj hw
    have hdest : dest .direct w 1 s = .outOfRange := dest_direct_outOfRange ha
    simp [exec, execCharIn, hdest]
  | _ => exact absurd hw nofun

end Sys2Proof.Machine
end

section
/-! The obligations of 60_exceptions.md: what an instruction that makes a report does. -/

open Sys2Proof Sys2Proof.Machine

namespace Sys2Proof.ExceptionProofs

/-- Settles O27: only an error moves the log (`Effect.control_cases`), and raising it is the whole effect (`raise_eq`). -/
theorem errorIsTheWholeEffect : Obligations.ErrorIsTheWholeEffect := by
  intro i s t hexec herrs
  obtain ⟨-, rfl⟩ | ⟨-, k, hjustified, rfl⟩ | ⟨-, -, hkept⟩ := (effect_of_exec hexec).control_cases
  · exact absurd rfl herrs
  · exact ⟨reportOf k i, rfl, rfl, hjustified, raise_eq k i s⟩
  · exact absurd hkept herrs

/-- Settles O25: each instruction of the list accesses memory in Direct mode, so it rejects modes 2 and 3, and CHAR_IN every mode but Direct (`exec_of_rejectsMode`). -/
theorem invalidModeIsReportedAndSkipped : Obligations.InvalidModeIsReportedAndSkipped := by
  refine fun r m w s => ⟨fun hm c hc => ?_, fun hm => ?_⟩
  · fin_cases hc <;>
      exact exec_of_rejectsMode rfl (rejectsMode_unnamed hm _) s
  · exact exec_of_rejectsMode (i := .charIn r m w) rfl (rejectsMode_charIn hm) s

/-- Settles O26: four instructions access two bytes in Direct mode and two access one (`exec_of_outOfRange`). -/
theorem outOfRangeHalts : Obligations.OutOfRangeHalts := by
  refine fun r w s => ⟨fun ha c hc => ?_, fun ha c hc => ?_⟩
  · fin_cases hc <;> exact exec_of_outOfRange rfl rfl ha
  · fin_cases hc <;> exact exec_of_outOfRange rfl rfl ha

end Sys2Proof.ExceptionProofs
end
